-- ==== Sys2Proof/Word.lean ====
section
/-!
DEFINITION. The word types of the keying core (00_scope.md R9, R10, R13): every quantity is unsigned, and the arithmetic of
`BitVec` is the arithmetic modulo 2^N of rule R14.
-/

namespace Sys2Proof

/-- A 32-bit word: a header, a logical index, a lag, a fault data word (00_scope.md R9, R10). -/
abbrev Word32 := BitVec 32

/-- A 64-bit word: an operand word, a result value, a timestamp in microseconds (00_scope.md R10; 30_encoding.md R122). -/
abbrev Word64 := BitVec 64

/-- A stream sample, 48 bits (30_encoding.md R130). -/
abbrev Sample := BitVec 48

/-- A logical index of the stream, modulo 2^32 (20_memory.md R80). -/
abbrev LogIdx := BitVec 32

/-- The `CTX` field of a header: a consumer-context index (30_encoding.md R121, R127). -/
abbrev CtxIdx := BitVec 4

/-- The paddle operand: bit 0 the dit paddle, bit 1 the dah paddle (30_encoding.md R131, R141). -/
abbrev Paddles := BitVec 2

end Sys2Proof
end

