-- ==== Sys2Proof/Config.lean ====
section
/-!
DEFINITION. What an implementation fixes, and the free values: the parameters CAP and NC (00_scope.md R7, R8) and the draw of a
slot copy that races an overwrite (00_scope.md R17; 20_memory.md R95).
-/

namespace Sys2Proof

/-- The implementation parameters. Only legal values can be written: `CAP = 2^capLog2` with `capLog2` at most 31
(00_scope.md R7) and `NC = ncPred + 1`, from 1 to 16 (00_scope.md R8). -/
structure Params where
  capLog2 : Fin 32
  ncPred : Fin 16
deriving DecidableEq, Repr

/-- The number of consumer contexts `NC` (00_scope.md R8). -/
def Params.nc (p : Params) : Nat := p.ncPred.val + 1

/-- The stream capacity `CAP`, as a 32-bit word (00_scope.md R7). -/
def Params.cap (p : Params) : Word32 := BitVec.ofNat 32 (2 ^ p.capLog2.val)

/-- A configuration asked for by number: refused (`none`) unless CAP is a power of two up to 2^31 and NC is 1 to 16
(00_scope.md R7: "A configuration with any other CAP (including 0) is refused"; R8). -/
def Params.ofNumbers (cap nc : Nat) : Option Params :=
  if h : cap = 2 ^ cap.log2 ∧ cap.log2 < 32 ∧ 1 ≤ nc ∧ nc ≤ 16 then
    some { capLog2 := ⟨cap.log2, h.2.1⟩, ncPred := ⟨nc - 1, by omega⟩ }
  else none

/-- DESIGN CHOICE (unsafe, log entry 1): the parameters of the state `State.reset`. The spec leaves both open; every
statement of this package that is about all states holds for all of them. -/
def Config.resetParams : Params := { capLog2 := 4, ncPred := 15 }

/-- The free value of a slot copy that races an overwrite (20_memory.md R95, R112: "returns ANY (48 bits)"), one for each
draw. It has no body: nothing can be proved of a value it takes (log entry 5). -/
opaque Config.slotDraw : Nat → Sample

end Sys2Proof
end

