-- ==== Sys2Proof/Syntax.lean ====
section
/-!
DEFINITION. The commands of the block: the triple an agent issues (30_encoding.md R120) and the 23 commands it can name
(30_encoding.md R150), one constructor per row of the opcode table.
-/

namespace Sys2Proof

/-- A command as an agent issues it: the header `H` and the operand words `A` and `B` (30_encoding.md R120 to R122). -/
structure Command where
  h : Word32
  a : Word64
  b : Word64
deriving DecidableEq, Repr

/-- The 23 commands. A constructor holds the operand words the command uses, whole: their reserved bits are checked when
the command is issued, after its role (60_exceptions.md R403), and are no part of decoding (30_encoding.md R126). An operand
word a command does not use is no part of it (30_encoding.md R122, log entry 12). `k` is the context field `CTX`. -/
inductive Instr where
  | strmInit
  | push (a : Word64)
  | pushRaw (a : Word64)
  | flush
  | read (a : Word64)
  | wpos
  | lag (a : Word64)
  | overrun (a : Word64)
  | hrtInit (k : CtxIdx) (a : Word64)
  | hrtTick (k : CtxIdx)
  | hrtResync (k : CtxIdx)
  | beInit (k : CtxIdx) (a b : Word64)
  | beTick (k : CtxIdx)
  | beDropped (k : CtxIdx)
  | fltSet (a b : Word64)
  | fltClear
  | fltActive
  | fltCode
  | fltData
  | fltCount
  | iamCfg (a : Word64)
  | iamTick (a b : Word64)
  | prodTick (a b : Word64)
deriving DecidableEq, Repr

end Sys2Proof
end

