-- ==== Sys2Proof/Machine/State.lean ====
section
/-!
DEFINITION. The state of the keying core as plain data: every element of 10_state.md R30, the commands in progress and the
memory history that the micro-step rules of 20_memory.md (R100 to R106) need, the agents' ports, and the schedule. `State.reset`
is the state after the reset of 70_reset_and_hazards.md R450.
-/

namespace Sys2Proof.Machine

/-- The agents (00_scope.md R6): the producer P, the readers R1 to R15, the operator O. `reader n` is the spec's `R(n+1)`;
it exists when `n + 1 < NC` (00_scope.md R8). -/
inductive Agent where
  | producer
  | reader (n : Fin 15)
  | operator
deriving DecidableEq, Repr

/-- Command statuses (30_encoding.md R125). -/
inductive Status where
  | ok | errIllegal | errRole | errNotReady | errMode | errBadArg | errBusy
deriving DecidableEq, Repr

/-- Result kinds (30_encoding.md R124). -/
inductive Kind where
  | ok | noData | fault
deriving DecidableEq, Repr

/-- A response of the block (30_encoding.md R123). -/
structure Response where
  status : Status
  kind : Kind
  v : Word64
deriving DecidableEq, Repr

/-- The mode of a consumer context (10_state.md R51); the value 3 is never stored, so it has no name. -/
inductive Mode where
  | none | hrt | be
deriving DecidableEq, Repr

/-- A consumer context (10_state.md R50 to R56). -/
structure Context where
  mode : Mode
  cur : LogIdx
  maxLag : Word32
  thr : Word32
  margin : Word32
  dropped : Word32
deriving DecidableEq, Repr

/-- A context after reset (70_reset_and_hazards.md R450). -/
def Context.reset : Context := { mode := .none, cur := 0, maxLag := 0, thr := 0, margin := 0, dropped := 0 }

/-- The FSM states (10_state.md R60). -/
inductive FsmState where
  | idle | sendDit | sendDah | gap
deriving DecidableEq, Repr

/-- Morse elements (00_scope.md R18; 10_state.md R63). -/
inductive Element where
  | none | dit | dah
deriving DecidableEq, Repr

/-- The timing configuration `CFG` (10_state.md R66). -/
structure IamConfig where
  wpm : BitVec 8
  modeB : Bool
  ditMemEn : Bool
  dahMemEn : Bool
deriving DecidableEq, Repr

/-- The Iambic Processor (10_state.md R60 to R68): `ST`, `END`, `KEY`, `LAST_EL`, `DIT_MEM`, `DAH_MEM`, `SQZ`, `CFG`. -/
structure Iambic where
  st : FsmState
  deadline : Word64
  key : Bool
  lastEl : Element
  ditMem : Bool
  dahMem : Bool
  sqz : Bool
  cfg : IamConfig
deriving DecidableEq, Repr

/-- The Iambic Processor after reset (70_reset_and_hazards.md R450). -/
def Iambic.reset : Iambic :=
  { st := .idle, deadline := 0, key := false, lastEl := .none, ditMem := false, dahMem := false, sqz := false,
    cfg := { wpm := 0, modeB := false, ditMemEn := false, dahMemEn := false } }

/-- Which stores happen before what an agent does next, or before a release store: for each of `W`, `ACTIVE`, `CODE`, `DATA` and
`COUNT` the position, in its modification order, of the newest of them, 0 being the reset value (20_memory.md R101; (b) of R103,
R105 and R106). A load of `W` or `ACTIVE` acquires, so the value it returned counts here too ((a) of R103 and R106). -/
structure View where
  w : Nat
  active : Nat
  code : Nat
  data : Nat
  count : Nat
deriving DecidableEq, Repr

/-- The view that has seen the reset values only. -/
def View.zero : View := { w := 0, active := 0, code := 0, data := 0, count := 0 }

/-- How new a value of `CODE`, `DATA` and `COUNT` an agent's own relaxed loads have returned. It bounds the agent's later loads of
that field ((a) of 20_memory.md R105) and nothing else: a relaxed load makes no store happen before anything (R101), so no
release store carries it. -/
structure Loaded where
  code : Nat
  data : Nat
  count : Nat
deriving DecidableEq, Repr

/-- Only the reset values have been loaded. -/
def Loaded.zero : Loaded := { code := 0, data := 0, count := 0 }

/-- A shared single-copy atomic location (20_memory.md R89): its latest value in interleaving order, the view a release store
put with it, and the older values of its modification order, newest first. -/
structure Cell (n : Nat) where
  cur : BitVec n
  rel : View
  past : List (BitVec n × View)
deriving DecidableEq, Repr

/-- A location after reset: the value 0, and no older value. -/
def Cell.zero (n : Nat) : Cell n := { cur := 0, rel := View.zero, past := [] }

/-- For whom a slot is copied: the command READ, a hard-RT tick, or a best-effort tick (which has skipped or not). -/
inductive Reader where
  | plain
  | hrt (k : CtxIdx)
  | be (k : CtxIdx) (skipped : Bool)
deriving DecidableEq, Repr

/-- What is left of a command in progress is a list of these (00_scope.md R16). All but the four marked SILENT are
micro-steps, each indivisible; a silent one touches only state private to its agent and is part of the micro-step before
it. `Machine/Micro.lean` gives each its effect. -/
inductive Op where
  /-- STRM_INIT: zero every slot, PW, LAST and IDLE_CNT (40_stream.md R200). -/
  | strmZero
  /-- STRM_INIT: `rel_store(W, 0)`. -/
  | strmPublish
  /-- `slot_write_begin(j)` (20_memory.md R94). -/
  | slotWriteBegin
  /-- `slot_write_end(j, v)` (20_memory.md R94). -/
  | slotWriteEnd (v : Sample)
  /-- `rel_store(W, j + 1)` (40_stream.md R206). -/
  | publish
  /-- SILENT: `IDLE_CNT <- 0` (40_stream.md R203). -/
  | clearIdle
  /-- SILENT: `LAST <- t` (40_stream.md R207). -/
  | setLast (t : Sample)
  /-- `rlx_store(CODE, c)` (43_fault.md R281, R284). -/
  | storeCode (c : BitVec 8)
  /-- `rlx_store(DATA, d)` (43_fault.md R281, R284). -/
  | storeData (d : Word32)
  /-- `fetch_add_rlx(COUNT, 1)` (43_fault.md R281). -/
  | countFault
  /-- `rel_store(ACTIVE, b)` (43_fault.md R281, R284). -/
  | storeActive (b : Bool)
  /-- SILENT: the result of the command (30_encoding.md R123). -/
  | result (kind : Kind) (v : Word64)
  /-- WPOS: the load of W (40_stream.md R211). -/
  | wpos
  /-- LAG: the load of W (40_stream.md R212). -/
  | lag (i : LogIdx)
  /-- OVERRUN: the load of W (40_stream.md R213). -/
  | overrun (i : LogIdx)
  /-- StreamRead: the load of W and the window test (40_stream.md R210). -/
  | readLoad (i : LogIdx) (r : Reader)
  /-- StreamRead: `slot_copy(i)` (20_memory.md R95). -/
  | slotCopy (i : LogIdx) (r : Reader)
  /-- HRT_INIT: the load of W and the context's fields (41_hrt_consumer.md R240). -/
  | hrtInit (k : CtxIdx) (maxLag : Word32)
  /-- HRT_TICK (a): the load of ACTIVE (41_hrt_consumer.md R241). -/
  | hrtFlag (k : CtxIdx)
  /-- HRT_TICK (b), (c): the first load of W (41_hrt_consumer.md R241). -/
  | hrtLag (k : CtxIdx)
  /-- HRT_TICK (d): the second load of W (41_hrt_consumer.md R241). -/
  | hrtOverrun (k : CtxIdx)
  /-- HRT_RESYNC: the load of W and the cursor (41_hrt_consumer.md R242). -/
  | hrtResync (k : CtxIdx)
  /-- BE_INIT: the load of W and the context's fields (42_be_consumer.md R260). -/
  | beInit (k : CtxIdx) (thr margin : Word32)
  /-- BE_TICK (a): the load of `w1` (42_be_consumer.md R261). -/
  | beLag (k : CtxIdx)
  /-- BE_TICK (b): the load of `w2` and the skip (42_be_consumer.md R261). -/
  | beSkip (k : CtxIdx)
  /-- BE_TICK (b): the load of `w3` (42_be_consumer.md R261). -/
  | beAgain (k : CtxIdx)
  /-- BE_TICK (d): the load of `w4` and the jump (42_be_consumer.md R261). -/
  | beJump (k : CtxIdx)
  /-- FLT_ACTIVE: the load of ACTIVE (43_fault.md R286). -/
  | fltActive
  /-- FLT_CODE: the load of CODE (43_fault.md R287). -/
  | fltCode
  /-- FLT_DATA: the load of DATA (43_fault.md R288). -/
  | fltData
  /-- FLT_COUNT: the load of COUNT (43_fault.md R289). -/
  | fltCount
  /-- SILENT: PROD_TICK takes the key bit of a data sample read (45_producer.md R340). -/
  | latch
  /-- PROD_TICK: the fault check and the result (45_producer.md R340). -/
  | faultCheck (s : Sample)
deriving DecidableEq, Repr

/-- A command in progress: what is left of it, its result so far (a tick's `OK`, `NO_DATA` or `FAULT` with its value), and
whether a STRM_INIT ran while it was in progress (20_memory.md R112). -/
structure Thread where
  ops : List Op
  kind : Kind
  value : Word64
  overlapped : Bool
deriving DecidableEq, Repr

/-- An agent's port: the command in progress on it, the last response on it, which stores happen before what the agent does
next, and what its relaxed loads have returned. -/
structure Port where
  thread : Option Thread
  response : Option Response
  view : View
  loaded : Loaded
deriving DecidableEq, Repr

/-- A port after reset. -/
def Port.idle : Port := { thread := none, response := none, view := View.zero, loaded := Loaded.zero }

/-- One slice of the schedule: the agent that moves, the number of micro-steps after which it is switched out (`none`: it is
not), and the ages its loads ask for, in order (0 or nothing: the latest value). Log entries 2 and 4. -/
structure Slice where
  agent : Agent
  budget : Option Nat
  ages : List Nat
deriving DecidableEq, Repr

/-- One entry of the schedule: an agent moves, or the host asserts reset (70_reset_and_hazards.md R450). -/
inductive Turn where
  | serve (slice : Slice)
  | reset
deriving DecidableEq, Repr

/-- Nothing stops the block: a refused command is answered and changes nothing (60_exceptions.md R400, R401), and the block's
own fault is a state (R412). So no step of the model ends in a fault, and this type has no constructor. -/
inductive Fault where
deriving DecidableEq, Repr

/-- Why a step has no meaning. -/
inductive Refusal where
  /-- Raised by an arm of `exec` whose instruction is not modelled. No arm is. Safe. -/
  | notModelled (mnemonic : String)
  /-- Raised by `step` when the schedule names a reader that the block does not have: the agents are P, R1 to R(NC-1) and O
  (00_scope.md R6). Safe: such an input is no run of the block (log entry 8). -/
  | noSuchPort
  /-- Raised by `step` when reset is asserted while a command is in progress, which "is outside the model"
  (70_reset_and_hazards.md R451). Safe (log entry 7). -/
  | resetDuringCommand
deriving DecidableEq, Repr

/-- The state of the block. The elements of 10_state.md R30 come first; `slots`, `ctxs`, `ports` and `inboxes` list only the
entries that differ from what reset leaves (log entry 9). -/
structure State where
  /-- The parameters CAP and NC (00_scope.md R7, R8). -/
  params : Params
  /-- `W`, the write index (10_state.md R31). -/
  w : Cell 32
  /-- `SLOT[0..CAP-1]` (10_state.md R32), by slot number. -/
  slots : List (Nat × Sample)
  /-- `LAST` (10_state.md R33). -/
  last : Sample
  /-- `IDLE_CNT` (10_state.md R34). -/
  idleCnt : BitVec 16
  /-- `PW` (10_state.md R37). -/
  pw : Word32
  /-- `ACTIVE` (10_state.md R40). -/
  active : Cell 1
  /-- `CODE` (10_state.md R41). -/
  code : Cell 8
  /-- `DATA` (10_state.md R42). -/
  data : Cell 32
  /-- `COUNT` (10_state.md R43). -/
  count : Cell 32
  /-- `CTX[0..NC-1]` (10_state.md R50), by context number. -/
  ctxs : List (Nat × Context)
  /-- `ST`, `END`, `KEY`, `LAST_EL`, `DIT_MEM`, `DAH_MEM`, `SQZ`, `CFG` (10_state.md R60 to R66). -/
  fsm : Iambic
  /-- `OUT_LATCH` (10_state.md R70). -/
  outLatch : Bool
  /-- The agents' ports, by `Agent.index`. -/
  ports : List (Nat × Port)
  /-- MODEL: commands queued at the ports and not issued yet, by `Agent.index` (log entry 21). -/
  inboxes : List (Nat × List Command)
  /-- MODEL: the schedule, what happens next first (log entry 3). -/
  turns : List Turn
  /-- MODEL: the slice being served (log entry 2). -/
  turn : Slice
  /-- MODEL: how many free values have been drawn (log entry 5). -/
  draws : Nat
deriving DecidableEq, Repr

/-- The slice a fresh state holds: the producer, not switched out, every load the latest. -/
def Slice.fresh : Slice := { agent := .producer, budget := none, ages := [] }

/-- The state after reset, for given parameters (70_reset_and_hazards.md R450; 10_state.md R30). -/
def State.resetWith (p : Params) : State :=
  { params := p, w := Cell.zero 32, slots := [], last := 0, idleCnt := 0, pw := 0,
    active := Cell.zero 1, code := Cell.zero 8, data := Cell.zero 32, count := Cell.zero 32,
    ctxs := [], fsm := Iambic.reset, outLatch := false,
    ports := [], inboxes := [], turns := [], turn := Slice.fresh, draws := 0 }

/-- The machine right after reset (70_reset_and_hazards.md R450), with the parameters of log entry 1. -/
def State.reset : State := State.resetWith Config.resetParams

end Sys2Proof.Machine
end

