-- ==== Sys2Proof/Machine/Operands.lean ====
section
/-!
DEFINITION. The fields of operand words, samples and configuration words, their legality, and the codes of the enumerated
values (30_encoding.md R122 to R145; 10_state.md R45, R51, R60, R63).
-/

namespace Sys2Proof.Machine

/-- The fault codes an agent can raise (10_state.md R45). -/
inductive FaultCode where
  | consumerOverrun | latencyExceeded | producerOverrun | hardware
deriving DecidableEq, Repr

/-- The number of a fault code (10_state.md R45); NONE is 0. -/
def faultCodeNumber : FaultCode → BitVec 8
  | .consumerOverrun => 1
  | .latencyExceeded => 2
  | .producerOverrun => 3
  | .hardware => 4

/-- The status code of a response (30_encoding.md R125). -/
def statusCode : Status → BitVec 8
  | .ok => 0x00
  | .errIllegal => 0x01
  | .errRole => 0x02
  | .errNotReady => 0x03
  | .errMode => 0x04
  | .errBadArg => 0x05
  | .errBusy => 0x06

/-- The kind code of a response (30_encoding.md R124). -/
def kindCode : Kind → BitVec 2
  | .ok => 0
  | .noData => 1
  | .fault => 2

/-- The mode number of a context (10_state.md R51). -/
def modeCode : Mode → BitVec 2
  | .none => 0
  | .hrt => 1
  | .be => 2

/-- The number of an FSM state (10_state.md R60). -/
def fsmStateCode : FsmState → BitVec 2
  | .idle => 0
  | .sendDit => 1
  | .sendDah => 2
  | .gap => 3

/-- The number of an element (10_state.md R63). -/
def elementCode : Element → BitVec 2
  | .none => 0
  | .dit => 1
  | .dah => 2

/-- The response as the words of rule R123: `STATUS[7:0]`, `KIND[1:0]`, `V[63:0]`. -/
def responseWords (r : Response) : BitVec 8 × BitVec 2 × Word64 := (statusCode r.status, kindCode r.kind, r.v)

/-- The sample operand `A[47:0]` of PUSH and PUSH_RAW (30_encoding.md R145). -/
def operandSample (a : Word64) : Sample := a.extractLsb' 0 48

/-- The low 32 bits of an operand word: an index, a lag bound, a threshold, a margin, fault data (30_encoding.md R142 to R144). -/
def operandWord (a : Word64) : Word32 := a.extractLsb' 0 32

/-- The fault code operand `A[7:0]` (30_encoding.md R143). -/
def operandCode (a : Word64) : BitVec 8 := a.extractLsb' 0 8

/-- The paddle operand `B[1:0]` (30_encoding.md R141). -/
def operandPaddles (b : Word64) : Paddles := b.extractLsb' 0 2

/-- The configuration operand (30_encoding.md R140). -/
def operandConfig (a : Word64) : IamConfig :=
  { wpm := a.extractLsb' 0 8, modeB := a.getLsbD 8, ditMemEn := a.getLsbD 9, dahMemEn := a.getLsbD 10 }

/-- The paddles of a sample, `[1:0]` (30_encoding.md R131). -/
def samplePaddles (s : Sample) : Paddles := s.extractLsb' 0 2

/-- `KEY_OUT`, `[8]` (30_encoding.md R132). -/
def sampleKey (s : Sample) : Bool := s.getLsbD 8

/-- `AUDIO_LEVEL`, `[23:16]` (30_encoding.md R133). -/
def sampleAudio (s : Sample) : BitVec 8 := s.extractLsb' 16 8

/-- `FLAGS`, `[31:24]` (30_encoding.md R134). -/
def sampleFlags (s : Sample) : BitVec 8 := s.extractLsb' 24 8

/-- The `SILENCE` flag, `[26]` (30_encoding.md R134). -/
def sampleSilence (s : Sample) : Bool := s.getLsbD 26

/-- `PAYLOAD16`, `[47:32]` (30_encoding.md R135). -/
def samplePayload (s : Sample) : BitVec 16 := s.extractLsb' 32 16

/-- A sample from its fields (30_encoding.md R130). -/
def sampleOf (payload : BitVec 16) (flags audio : BitVec 8) (key : Bool) (paddles : Paddles) : Sample :=
  payload ++ flags ++ audio ++ 0#7 ++ BitVec.ofBool key ++ 0#6 ++ paddles

/-- No reserved Sample bit is set: `[7:2]`, `[15:9]`, `[31:29]` (30_encoding.md R136). -/
def sampleReservedClear (s : Sample) : Bool :=
  s.extractLsb' 2 6 == 0#6 && s.extractLsb' 9 7 == 0#7 && s.extractLsb' 29 3 == 0#3

/-- The operand of PUSH and PUSH_RAW is legal (60_exceptions.md R408). -/
def sampleOperandOk (a : Word64) : Bool := a.extractLsb' 48 16 == 0#16 && sampleReservedClear (operandSample a)

/-- Bits `[63:32]` of a word operand are 0 (60_exceptions.md R408). -/
def wordOperandOk (a : Word64) : Bool := a.extractLsb' 32 32 == 0#32

/-- The code operand of FLT_SET is legal: nothing above bit 7, and a code 1 to 4 (60_exceptions.md R408). -/
def codeOperandOk (a : Word64) : Bool :=
  a.extractLsb' 8 56 == 0#56 && operandCode a != 0#8 && decide (operandCode a ≤ 4#8)

/-- The configuration operand is legal: nothing above bit 10, and a speed other than 0 (60_exceptions.md R408). -/
def configOperandOk (a : Word64) : Bool := a.extractLsb' 11 53 == 0#53 && a.extractLsb' 0 8 != 0#8

/-- Bits `[63:2]` of the paddle operand are 0 (60_exceptions.md R408). -/
def paddleOperandOk (b : Word64) : Bool := b.extractLsb' 2 62 == 0#62

end Sys2Proof.Machine
end

