-- ==== Sys2Proof/Machine/Flags.lean ====
section
/-!
DEFINITION. Every flag computation of the spec: the comparison and the edge flags of PUSH (40_stream.md R201, R204, R205), the
silence marker (30_encoding.md R137), and the output pins (45_producer.md R342). The block has no condition codes (10_state.md R73).
-/

namespace Sys2Proof.Machine

/-- `Same(a, b)`: paddles, key-out and audio level agree (40_stream.md R201). -/
def sameSample (a b : Sample) : Bool :=
  samplePaddles a == samplePaddles b && sampleKey a == sampleKey b && sampleAudio a == sampleAudio b

/-- `EdgeFlags(s, L)`: `EDGE_GPIO` (a paddle changed) and `EDGE_KEY` (key-out changed) (40_stream.md R204). -/
def edgeFlags (s l : Sample) : Bool × Bool := (samplePaddles s != samplePaddles l, sampleKey s != sampleKey l)

/-- `Annotate(s, L)`: bits 24 and 25 are the edge flags, bit 26 (`SILENCE`) is cleared, every other bit is carried through
(40_stream.md R205). -/
def annotate (s l : Sample) : Sample :=
  s.extractLsb' 27 21 ++ 0#1 ++ BitVec.ofBool (edgeFlags s l).2 ++ BitVec.ofBool (edgeFlags s l).1 ++ s.extractLsb' 0 24

/-- `Marker(n)`, the silence marker of a run of `n` ticks (30_encoding.md R137). -/
def marker (n : BitVec 16) : Sample := sampleOf n 0x04 0x00 false 0

/-- The pin `TX_KEY = OUT_LATCH & ~ACTIVE` (10_state.md R71; 45_producer.md R342). -/
def State.txKey (s : State) : Bool := s.outLatch && s.active.cur == 0#1

/-- The pin `AUDIO_MUTE = ACTIVE` (10_state.md R71; 45_producer.md R342). -/
def State.audioMute (s : State) : Bool := s.active.cur == 1#1

/-- The pin `FAULT = ACTIVE` (45_producer.md R342; 60_exceptions.md R419). -/
def State.faultPin (s : State) : Bool := s.active.cur == 1#1

end Sys2Proof.Machine
end

