-- ==== Sys2Proof/Machine/Sparse.lean ====
section
/-!
DEFINITION. A sparse table with natural numbers as keys, in one canonical form: keys strictly rising, and no entry equal to
the value `d` that an unlisted key reads as. The slot RAM, the context file, the ports and the inboxes are such tables.
-/

namespace Sys2Proof.Machine

/-- The value at key `k`; `d` where nothing is listed. -/
def sparseGet {α : Type} (d : α) : List (Nat × α) → Nat → α
  | [], _ => d
  | (j, v) :: rest, k => if j = k then v else sparseGet d rest k

/-- The table without key `k`. -/
def sparseErase {α : Type} : List (Nat × α) → Nat → List (Nat × α)
  | [], _ => []
  | (j, v) :: rest, k => if j = k then sparseErase rest k else (j, v) :: sparseErase rest k

/-- The table with the entry `(k, v)` before the first greater key. -/
def sparseInsert {α : Type} (k : Nat) (v : α) : List (Nat × α) → List (Nat × α)
  | [] => [(k, v)]
  | (j, u) :: rest => if k < j then (k, v) :: (j, u) :: rest else (j, u) :: sparseInsert k v rest

/-- The table with `v` at key `k`: writing `d` removes the entry, so that equal tables are equal data. -/
def sparsePut {α : Type} [DecidableEq α] (d : α) (l : List (Nat × α)) (k : Nat) (v : α) : List (Nat × α) :=
  if v = d then sparseErase l k else sparseInsert k v (sparseErase l k)

/-- The canonical form, with every key below `bound`. -/
abbrev sparseWf {α : Type} (d : α) (bound : Nat) (l : List (Nat × α)) : Prop :=
  l.Pairwise (fun x y => x.1 < y.1) ∧ ∀ e ∈ l, e.1 < bound ∧ e.2 ≠ d

end Sys2Proof.Machine
end

