-- ==== Sys2Proof/Machine/Memory.lean ====
section
/-!
DEFINITION. The named reads and writes of every store of the block: ports and contexts, the slot RAM (20_memory.md R80 to R96),
and the shared single-copy atomic locations with their acquire, release and relaxed accesses (20_memory.md R89, R101 to R106).
-/

namespace Sys2Proof.Machine

/-- The agent's place in the port tables: P 0, Rk k, O 16. -/
def Agent.index : Agent → Nat
  | .producer => 0
  | .reader n => n.val + 1
  | .operator => 16

/-- The context an agent owns: 0 for P, k for Rk, none for O (30_encoding.md R127; 10_state.md R50). -/
def Agent.ownContext : Agent → Option CtxIdx
  | .producer => some 0
  | .reader n => some (BitVec.ofNat 4 (n.val + 1))
  | .operator => none

/-! ### Ports and contexts -/

/-- An agent's port. -/
def State.port (s : State) (a : Agent) : Port := sparseGet Port.idle s.ports a.index

/-- Writes an agent's port. -/
def State.setPort (s : State) (a : Agent) (p : Port) : State :=
  { s with ports := sparsePut Port.idle s.ports a.index p }

/-- Which stores happen before what an agent does next. -/
def State.view (s : State) (a : Agent) : View := (s.port a).view

/-- Writes an agent's view. -/
def State.setView (s : State) (a : Agent) (v : View) : State := s.setPort a { s.port a with view := v }

/-- What an agent's relaxed loads have returned. -/
def State.loaded (s : State) (a : Agent) : Loaded := (s.port a).loaded

/-- Writes what an agent's relaxed loads have returned. -/
def State.setLoaded (s : State) (a : Agent) (l : Loaded) : State := s.setPort a { s.port a with loaded := l }

/-- The oldest value of CODE that agent `a` may still load: (a) and (b) of 20_memory.md R105. -/
def State.seenCode (s : State) (a : Agent) : Nat := max (s.view a).code (s.loaded a).code

/-- The oldest value of DATA that agent `a` may still load (20_memory.md R105). -/
def State.seenData (s : State) (a : Agent) : Nat := max (s.view a).data (s.loaded a).data

/-- The oldest value of COUNT that agent `a` may still load (20_memory.md R105). -/
def State.seenCount (s : State) (a : Agent) : Nat := max (s.view a).count (s.loaded a).count

/-- The commands an agent has queued. -/
def State.inbox (s : State) (a : Agent) : List Command := sparseGet [] s.inboxes a.index

/-- Writes an agent's queue. -/
def State.setInbox (s : State) (a : Agent) (cs : List Command) : State :=
  { s with inboxes := sparsePut [] s.inboxes a.index cs }

/-- Context `k` of the context file (10_state.md R50). -/
def State.ctx (s : State) (k : CtxIdx) : Context := sparseGet Context.reset s.ctxs k.toNat

/-- Writes context `k`. -/
def State.setCtx (s : State) (k : CtxIdx) (c : Context) : State :=
  { s with ctxs := sparsePut Context.reset s.ctxs k.toNat c }

/-! ### The slot RAM -/

/-- The slot that holds logical index `i`: `i & (CAP-1)` (20_memory.md R81). -/
def State.slotOf (s : State) (i : LogIdx) : Nat := (i &&& (s.params.cap - 1#32)).toNat

/-- The contents of slot `n`; a slot nothing has written holds the reset value 0 (20_memory.md R83; 30_encoding.md R138). -/
def State.slot (s : State) (n : Nat) : Sample := sparseGet 0 s.slots n

/-- The canonical form of the slot RAM: slot numbers strictly rising and below CAP (10_state.md R32), and no slot listed that
holds the reset value, so that equal memories are equal data. -/
abbrev Memory.wf (p : Params) (m : List (Nat × Sample)) : Prop := sparseWf 0 (2 ^ p.capLog2.val) m

/-- Writes slot `n` whole (20_memory.md R83). -/
def State.setSlot (s : State) (n : Nat) (v : Sample) : State := { s with slots := sparsePut 0 s.slots n v }

/-! ### Shared locations -/

/-- The later of two views, location by location: the stores of both happen before. -/
def View.join (x y : View) : View :=
  { w := max x.w y.w, active := max x.active y.active, code := max x.code y.code, data := max x.data y.data,
    count := max x.count y.count }

/-- The position of the latest value in the location's modification order. -/
def Cell.top {n : Nat} (c : Cell n) : Nat := c.past.length

/-- The value stored `age` stores before the latest, and the view it carries. -/
def Cell.atAge {n : Nat} (c : Cell n) : Nat → BitVec n × View
  | 0 => (c.cur, c.rel)
  | age + 1 => c.past.getD age (c.cur, c.rel)

/-- A store: the location's new latest value, carrying a view (20_memory.md R106: the modification order is the interleaving
order of the stores). -/
def Cell.store {n : Nat} (c : Cell n) (v : BitVec n) (rel : View) : Cell n :=
  { cur := v, rel := rel, past := (c.cur, c.rel) :: c.past }

/-- The age the next load asks for: the head of the slice's list, the latest value where the list is empty (log entry 4). -/
def State.nextAge (s : State) : Nat := s.turn.ages.headD 0

/-- One age is used up. -/
def State.dropAge (s : State) : State := { s with turn := { s.turn with ages := s.turn.ages.tail } }

/-- The age a load takes: the one asked for, but not older than the oldest value allowed, position `seen` of a modification
order whose latest position is `top` (20_memory.md R103, R105, R106).
DEDUCED: an older value that an agent has loaded may be loaded again, as (a) of R103 and R105 says; V-M2 of 95_test_vectors.md says that
W = 0 cannot be (log entry 28). -/
def State.loadAge (s : State) (seen top : Nat) : Nat := min s.nextAge (top - seen)

/-- `acq_load(W)` by agent `a`: a value of W's modification order as new as `a`'s view asks (20_memory.md R103); what happens
before the store that wrote it then happens before what `a` does next (R101, R102).
DEDUCED: a later load may return a newer value though no store came between, so the answer of READ, WPOS, LAG or OVERRUN may change where
R91 says that it does not (log entry 27). -/
def State.acqLoadW (s : State) (a : Agent) : Word32 × State :=
  let v := s.view a
  let age := s.loadAge v.w s.w.top
  let m := s.w.atAge age
  (m.1, s.dropAge.setView a ((v.join { View.zero with w := s.w.top - age }).join m.2))

/-- `rel_store(W, v)` by agent `a` (20_memory.md R102).
DEDUCED: after STRM_INIT's store of 0 another agent may still load a W stored before it, as R103 says; then a cursor left from before may
show a small lag and its copy draw, where R112 and 40_stream.md R200 say that it reads as overrun (log entry 29). -/
def State.relStoreW (s : State) (a : Agent) (x : Word32) : State :=
  let v := (s.view a).join { View.zero with w := s.w.top + 1 }
  { s with w := s.w.store x v }.setView a v

/-- `acq_load(ACTIVE)` by agent `a` (20_memory.md R106).
DEDUCED: a second load that returns 1 again does not show that no clear came between, as 70_reset_and_hazards.md R471 says it does: a
clear and a new set may have (20_memory.md R100), or the load may return the older 1 again (R106; log entry 26).
DEDUCED too: a later load may return a newer flag though no store came between (R91; log entry 27). -/
def State.acqLoadActive (s : State) (a : Agent) : Bool × State :=
  let v := s.view a
  let age := s.loadAge v.active s.active.top
  let m := s.active.atAge age
  (m.1 == 1#1, s.dropAge.setView a ((v.join { View.zero with active := s.active.top - age }).join m.2))

/-- `rel_store(ACTIVE, b)` by agent `a` (20_memory.md R104). -/
def State.relStoreActive (s : State) (a : Agent) (b : Bool) : State :=
  let v := (s.view a).join { View.zero with active := s.active.top + 1 }
  { s with active := s.active.store (BitVec.ofBool b) v }.setView a v

/-- `rlx_load(CODE)` by agent `a` (20_memory.md R105). It is remembered for `a`'s own later loads, and changes no view.
DEDUCED: it may return a code 1 to 4 while ACTIVE is 0 not only inside an unfinished FaultSet, as the corner case of 43_fault.md R287
says, but between the first two micro-steps of FaultClear (R284) and as an older value (R105) too (log entry 25).
DEDUCED: a later load may return a newer code though no store came between, where 20_memory.md R91 says that a repeated observer gives
the same answer (log entry 27). -/
def State.rlxLoadCode (s : State) (a : Agent) : BitVec 8 × State :=
  let age := s.loadAge (s.seenCode a) s.code.top
  ((s.code.atAge age).1,
    s.dropAge.setLoaded a { s.loaded a with code := max (s.loaded a).code (s.code.top - age) })

/-- `rlx_store(CODE, c)` by agent `a`. -/
def State.rlxStoreCode (s : State) (a : Agent) (c : BitVec 8) : State :=
  let v := (s.view a).join { View.zero with code := s.code.top + 1 }
  { s with code := s.code.store c View.zero }.setView a v

/-- `rlx_load(DATA)` by agent `a` (20_memory.md R105), as `rlxLoadCode`. -/
def State.rlxLoadData (s : State) (a : Agent) : Word32 × State :=
  let age := s.loadAge (s.seenData a) s.data.top
  ((s.data.atAge age).1,
    s.dropAge.setLoaded a { s.loaded a with data := max (s.loaded a).data (s.data.top - age) })

/-- `rlx_store(DATA, d)` by agent `a`. -/
def State.rlxStoreData (s : State) (a : Agent) (d : Word32) : State :=
  let v := (s.view a).join { View.zero with data := s.data.top + 1 }
  { s with data := s.data.store d View.zero }.setView a v

/-- `rlx_load(COUNT)` by agent `a` (20_memory.md R105), as `rlxLoadCode`. -/
def State.rlxLoadCount (s : State) (a : Agent) : Word32 × State :=
  let age := s.loadAge (s.seenCount a) s.count.top
  ((s.count.atAge age).1,
    s.dropAge.setLoaded a { s.loaded a with count := max (s.loaded a).count (s.count.top - age) })

/-- `fetch_add_rlx(COUNT, 1)` by agent `a`: indivisible, so it adds to the latest value (20_memory.md R109). -/
def State.fetchAddCount (s : State) (a : Agent) : State :=
  let v := (s.view a).join { View.zero with count := s.count.top + 1 }
  { s with count := s.count.store (s.count.cur + 1#32) View.zero }.setView a v

/-! ### The slot copy -/

/-- Whether a STRM_INIT is in progress: P has been switched out between its two micro-steps (20_memory.md R112). -/
def State.strmInitRunning (s : State) : Bool :=
  match (s.port .producer).thread with
  | some th => th.ops.contains Op.strmPublish
  | none => false

/-- Whether a copy of logical index `i` draws: the producer has begun a write of an index at least `i + CAP` (20_memory.md R95),
or the command overlaps a STRM_INIT (R112; 93_implementation_defined.md I14). -/
def State.copyDraws (s : State) (overlapped : Bool) (i : LogIdx) : Bool :=
  overlapped || s.strmInitRunning || decide (s.params.cap < s.pw - i)

/-- `slot_copy(i)`: the slot's contents, or a free value (20_memory.md R95; log entry 5). -/
def State.copySlot (s : State) (overlapped : Bool) (i : LogIdx) : Sample × State :=
  if s.copyDraws overlapped i then (Config.slotDraw s.draws, { s with draws := s.draws + 1 })
  else (s.slot (s.slotOf i), s)

end Sys2Proof.Machine
end

