-- ==== Sys2Proof/Machine/Ops.lean ====
section
/-!
DEFINITION. The shared operations, each written as the sequence of its micro-steps: the slot write and its uses (40_stream.md
R202 to R206), raising a fault and clearing it (43_fault.md R281, R284), the stream read (40_stream.md R210), and the effect of
the micro-steps they are made of.
-/

namespace Sys2Proof.Machine

/-! ### Micro-step sequences -/

/-- `WriteSlot(v)`: begin, end, publish (40_stream.md R206; 20_memory.md R94). -/
def writeSlotOps (v : Sample) : List Op := [.slotWriteBegin, .slotWriteEnd v, .publish]

/-- `FlushPending()`: the accumulated idle count as one marker, if there is any (40_stream.md R203). -/
def flushPendingOps (idleCnt : BitVec 16) : List Op :=
  if idleCnt = 0#16 then [] else writeSlotOps (marker idleCnt) ++ [.clearIdle]

/-- `FaultSet(code, data)`: taking the block's one exception (43_fault.md R281; 60_exceptions.md R413). The code and the data
are saved, the occurrence is counted, and the flag is set last. -/
def faultSetNumberOps (code : BitVec 8) (data : Word32) : List Op :=
  [.storeCode code, .storeData data, .countFault, .storeActive true]

/-- `FaultSet` with a named cause (60_exceptions.md R412). -/
def faultSetOps (code : FaultCode) (data : Word32) : List Op := faultSetNumberOps (faultCodeNumber code) data

/-- `FaultClear()`: leaving the fault (43_fault.md R284; 60_exceptions.md R415). The flag goes first; COUNT is kept. -/
def faultClearOps : List Op := [.storeActive false, .storeCode 0#8, .storeData 0#32]

/-- `StreamRead(i)` (40_stream.md R210). -/
def streamReadOps (i : LogIdx) (r : Reader) : List Op := [.readLoad i r]

/-- The hard-RT tick from step (a) on (41_hrt_consumer.md R241, `HrtBody`). -/
def hrtBodyOps (k : CtxIdx) : List Op := [.hrtFlag k]

/-! ### Private work of the producer -/

/-- `sat_16(v + 1)` (00_scope.md R14; 40_stream.md R202). -/
def satInc16 (n : BitVec 16) : BitVec 16 := if n = 65535#16 then n else n + 1#16

/-- `sat_32(x + y)` (00_scope.md R14; 42_be_consumer.md R261). -/
def satAdd32 (x y : Word32) : Word32 := if x.toNat + y.toNat < 2 ^ 32 then x + y else 0xFFFFFFFF#32

/-- `CountIdle()` (40_stream.md R202). -/
def State.countIdle (s : State) : State := { s with idleCnt := satInc16 s.idleCnt }

/-- `PushBody(s)`: the push of rule R207 after its checks. It answers whether the push was accepted, which it always is
(92_eei_decisions.md D16), the micro-steps to run, and the state after the private work before them. -/
def State.pushBody (s : State) (x : Sample) : Bool × List Op × State :=
  if sameSample x s.last then (true, [], s.countIdle)
  else (true, flushPendingOps s.idleCnt ++ writeSlotOps (annotate x s.last) ++ [.setLast (annotate x s.last)], s)

/-! ### What a stream read does with its outcome -/

/-- The thread with a result. -/
def Thread.withResult (th : Thread) (kind : Kind) (v : Word64) : Thread := { th with kind := kind, value := v }

/-- The thread with micro-steps put before what is left of it. -/
def Thread.prepend (th : Thread) (ops : List Op) : Thread := { th with ops := ops ++ th.ops }

/-- The read gave the sample `v`: READ answers it (40_stream.md R210); a consumer moves its cursor on by one and answers it
(41_hrt_consumer.md R241 (f); 42_be_consumer.md R261 (c)). -/
def readSucceeded (r : Reader) (v : Sample) (th : Thread) (s : State) : Thread × State :=
  match r with
  | .plain => (th.withResult .ok (v.zeroExtend 64), s)
  | .hrt k => (th.withResult .ok (v.zeroExtend 64), s.setCtx k { s.ctx k with cur := (s.ctx k).cur + 1#32 })
  | .be k _ => (th.withResult .ok (v.zeroExtend 64), s.setCtx k { s.ctx k with cur := (s.ctx k).cur + 1#32 })

/-- The read returned false: READ answers NO_DATA (40_stream.md R210); the hard-RT tick raises CONSUMER_OVERRUN
(41_hrt_consumer.md R241 (e)); the best-effort tick jumps if it has skipped, and answers NO_DATA (42_be_consumer.md R261 (d), (e)). -/
def readFailed (r : Reader) (behind : Word32) (th : Thread) (s : State) : Thread × State :=
  match r with
  | .plain => (th.withResult .noData 0, s)
  | .hrt _ => (th.prepend (faultSetOps .consumerOverrun behind ++ [.result .fault 0]), s)
  | .be k true => (th.prepend [.beJump k], s)
  | .be _ false => (th.withResult .noData 0, s)

/-- The load and the window test of `StreamRead` (40_stream.md R210; 20_memory.md R87).
DEDUCED: in a BE_TICK this load comes beside the loads `w1` to `w4` of 42_be_consumer.md R261; R265's "at most four loads of `W`"
is read as counting those four (log entry 24). -/
def runReadLoad (a : Agent) (i : LogIdx) (r : Reader) (th : Thread) (s : State) : Thread × State :=
  let (w, s1) := s.acqLoadW a
  let behind := w - i
  if behind = 0#32 ∨ s.params.cap < behind then readFailed r behind th s1
  else (th.prepend [.slotCopy i r], s1)

/-- The copy of `StreamRead` (40_stream.md R210; 20_memory.md R95). -/
def runSlotCopy (i : LogIdx) (r : Reader) (th : Thread) (s : State) : Thread × State :=
  let (v, s1) := s.copySlot th.overlapped i
  readSucceeded r v th s1

/-! ### The writer's micro-steps -/

/-- STRM_INIT's zeroing of the stream (40_stream.md R200). -/
def State.zeroStream (s : State) : State := { s with slots := [], pw := 0, last := 0, idleCnt := 0 }

/-- Every command in progress has overlapped a STRM_INIT (20_memory.md R112). -/
def State.markOverlapped (s : State) : State :=
  { s with ports := s.ports.map fun e =>
      (e.1, { e.2 with thread := e.2.thread.map fun th => { th with overlapped := true } }) }

/-- `slot_write_begin(j)`: `PW <- j + 1`, where `j = W` (20_memory.md R94; 40_stream.md R206). -/
def State.slotWriteBegin (s : State) : State := { s with pw := s.w.cur + 1#32 }

/-- `slot_write_end(j, v)`: `SLOT[j & (CAP-1)] <- v` (20_memory.md R94). -/
def State.slotWriteEnd (s : State) (v : Sample) : State := s.setSlot (s.slotOf s.w.cur) v

/-- `rel_store(W, j + 1)` (40_stream.md R206). -/
def State.publish (s : State) (a : Agent) : State := s.relStoreW a (s.w.cur + 1#32)

end Sys2Proof.Machine
end

