-- ==== Sys2Proof/Machine/Consumers.lean ====
section
/-!
DEFINITION. The micro-steps of the consumers: the hard-RT tick (41_hrt_consumer.md R240 to R242) and the best-effort tick
(42_be_consumer.md R260, R261). Each takes the context `k` as it stands: it is private to the agent that runs it.
-/

namespace Sys2Proof.Machine

/-- HRT_INIT: the cursor at the current write position (41_hrt_consumer.md R240). -/
def runHrtInit (a : Agent) (k : CtxIdx) (maxLag : Word32) (th : Thread) (s : State) : Thread × State :=
  let (w, s1) := s.acqLoadW a
  (th, s1.setCtx k { s1.ctx k with mode := .hrt, maxLag := maxLag, cur := w })

/-- HRT_TICK (a): a fault already active is sticky (41_hrt_consumer.md R241). -/
def runHrtFlag (a : Agent) (k : CtxIdx) (th : Thread) (s : State) : Thread × State :=
  let (active, s1) := s.acqLoadActive a
  if active then (th.withResult .fault 0, s1) else (th.prepend [.hrtLag k], s1)

/-- HRT_TICK (b) the latency bound, (c) nothing new (41_hrt_consumer.md R241). -/
def runHrtLag (a : Agent) (k : CtxIdx) (th : Thread) (s : State) : Thread × State :=
  let (w, s1) := s.acqLoadW a
  let lag := w - (s.ctx k).cur
  if (s.ctx k).maxLag < lag then (th.prepend (faultSetOps .latencyExceeded lag ++ [.result .fault 0]), s1)
  else if lag = 0#32 then (th.withResult .noData 0, s1)
  else (th.prepend [.hrtOverrun k], s1)

/-- HRT_TICK (d): the overrun test on a fresh load, then the read (41_hrt_consumer.md R241). -/
def runHrtOverrun (a : Agent) (k : CtxIdx) (th : Thread) (s : State) : Thread × State :=
  let (w2, s1) := s.acqLoadW a
  let lag := w2 - (s.ctx k).cur
  if s.params.cap < lag then (th.prepend (faultSetOps .consumerOverrun lag ++ [.result .fault 0]), s1)
  else (th.prepend (streamReadOps (s.ctx k).cur (.hrt k)), s1)

/-- HRT_RESYNC: the cursor jumps to the current write position (41_hrt_consumer.md R242). -/
def runHrtResync (a : Agent) (k : CtxIdx) (th : Thread) (s : State) : Thread × State :=
  let (w, s1) := s.acqLoadW a
  (th, s1.setCtx k { s1.ctx k with cur := w })

/-- BE_INIT (42_be_consumer.md R260). -/
def runBeInit (a : Agent) (k : CtxIdx) (thr margin : Word32) (th : Thread) (s : State) : Thread × State :=
  let (w, s1) := s.acqLoadW a
  (th, s1.setCtx k { s1.ctx k with mode := .be, thr := thr, margin := margin, dropped := 0, cur := w })

/-- BE_TICK (a), and whether (b) applies (42_be_consumer.md R261). -/
def runBeLag (a : Agent) (k : CtxIdx) (th : Thread) (s : State) : Thread × State :=
  let (w1, s1) := s.acqLoadW a
  let lag := w1 - (s.ctx k).cur
  if lag = 0#32 then (th.withResult .noData 0, s1)
  else if s.params.cap < lag ∨ (0#32 < (s.ctx k).thr ∧ (s.ctx k).thr < lag) then (th.prepend [.beSkip k], s1)
  else (th.prepend (streamReadOps (s.ctx k).cur (.be k false)), s1)

/-- BE_TICK (b): the skip, forward only, and the count of dropped samples (42_be_consumer.md R261). -/
def runBeSkip (a : Agent) (k : CtxIdx) (th : Thread) (s : State) : Thread × State :=
  let (w2, s1) := s.acqLoadW a
  let c := s.ctx k
  if c.margin < w2 - c.cur then
    (th.prepend [.beAgain k],
      s1.setCtx k { c with dropped := satAdd32 c.dropped (w2 - c.margin - c.cur), cur := w2 - c.margin })
  else (th.prepend [.beAgain k], s1)

/-- BE_TICK (b): the lag again after the skip (42_be_consumer.md R261). -/
def runBeAgain (a : Agent) (k : CtxIdx) (th : Thread) (s : State) : Thread × State :=
  let (w3, s1) := s.acqLoadW a
  if w3 - (s.ctx k).cur = 0#32 then (th.withResult .noData 0, s1)
  else (th.prepend (streamReadOps (s.ctx k).cur (.be k true)), s1)

/-- BE_TICK (d): the jump to the write position after a read that failed behind a skip (42_be_consumer.md R261).
DEDUCED: its load `w4` is the tick's fifth load of W when the load of the read counts; the model follows R261, not a bound of four
on all of them (R265; log entry 24). -/
def runBeJump (a : Agent) (k : CtxIdx) (th : Thread) (s : State) : Thread × State :=
  let (w4, s1) := s.acqLoadW a
  let c := s.ctx k
  (th.withResult .noData 0, s1.setCtx k { c with cur := w4, dropped := satAdd32 c.dropped 1#32 })

end Sys2Proof.Machine
end

