-- ==== Sys2Proof/Machine/Micro.lean ====
section
/-!
DEFINITION. Running a command: the effect of every micro-step, the run of a command until it ends or its agent is switched
out, the checks before the first micro-step (60_exceptions.md R400 to R409), and the response (30_encoding.md R123).
-/

namespace Sys2Proof.Machine

/-- Whether an entry is a silent one: private work that is part of the micro-step before it (00_scope.md R16). -/
def Op.silent : Op → Bool
  | .clearIdle => true
  | .setLast _ => true
  | .result _ _ => true
  | .latch => true
  | .strmZero => false
  | .strmPublish => false
  | .slotWriteBegin => false
  | .slotWriteEnd _ => false
  | .publish => false
  | .storeCode _ => false
  | .storeData _ => false
  | .countFault => false
  | .storeActive _ => false
  | .wpos => false
  | .lag _ => false
  | .overrun _ => false
  | .readLoad _ _ => false
  | .slotCopy _ _ => false
  | .hrtInit _ _ => false
  | .hrtFlag _ => false
  | .hrtLag _ => false
  | .hrtOverrun _ => false
  | .hrtResync _ => false
  | .beInit _ _ _ => false
  | .beLag _ => false
  | .beSkip _ => false
  | .beAgain _ => false
  | .beJump _ => false
  | .fltActive => false
  | .fltCode => false
  | .fltData => false
  | .fltCount => false
  | .faultCheck _ => false

/-- PROD_TICK's latch: a data sample read as OK sets `OUT_LATCH` to its key bit; NO_DATA, FAULT and a silence marker keep
it (45_producer.md R340, R341). -/
def State.takeLatch (s : State) (kind : Kind) (v : Word64) : State :=
  if kind = .ok ∧ sampleSilence (operandSample v) = false then { s with outLatch := sampleKey (operandSample v) } else s

/-- PROD_TICK's fault check and result: a fault forces the latch to 0; the value is the FSM sample with the key output in
bit 48 (45_producer.md R340; 30_encoding.md R145).
DEDUCED: bit 48 is `tx = OUT_LATCH & ~a` for the load `a` made here, as R340 writes it, also where that load returned an older ACTIVE than
pin TX_KEY follows and R145 names: the value a command answers is the one its pseudocode returns (00_scope.md R15), 92_eei_decisions.md
D43 admits the load, and a further access to ACTIVE is none of the command's (00_scope.md R16; 45_producer.md R343; log entry 13). -/
def runFaultCheck (a : Agent) (x : Sample) (th : Thread) (s : State) : Thread × State :=
  let (active, s1) := s.acqLoadActive a
  let s2 := if active then { s1 with outLatch := false } else s1
  ({ th with value := 0#15 ++ BitVec.ofBool (s2.outLatch && !active) ++ x }, s2)

/-- The effect of one entry of a command in progress of agent `a`; `th` is what is left after it. -/
def Op.perform (op : Op) (a : Agent) (th : Thread) (s : State) : Thread × State :=
  match op with
  | .strmZero => (th, s.zeroStream.markOverlapped)
  | .strmPublish => (th, (s.relStoreW a 0#32).markOverlapped)
  | .slotWriteBegin => (th, s.slotWriteBegin)
  | .slotWriteEnd v => (th, s.slotWriteEnd v)
  | .publish => (th, s.publish a)
  | .clearIdle => (th, { s with idleCnt := 0 })
  | .setLast t => (th, { s with last := t })
  | .storeCode c => (th, s.rlxStoreCode a c)
  | .storeData d => (th, s.rlxStoreData a d)
  | .countFault => (th, s.fetchAddCount a)
  | .storeActive b => (th, s.relStoreActive a b)
  | .result kind v => (th.withResult kind v, s)
  | .wpos => (th.withResult .ok ((s.acqLoadW a).1.zeroExtend 64), (s.acqLoadW a).2)
  | .lag i => (th.withResult .ok (((s.acqLoadW a).1 - i).zeroExtend 64), (s.acqLoadW a).2)
  | .overrun i =>
    (th.withResult .ok (if s.params.cap < (s.acqLoadW a).1 - i then 1#64 else 0#64), (s.acqLoadW a).2)
  | .readLoad i r => runReadLoad a i r th s
  | .slotCopy i r => runSlotCopy i r th s
  | .hrtInit k maxLag => runHrtInit a k maxLag th s
  | .hrtFlag k => runHrtFlag a k th s
  | .hrtLag k => runHrtLag a k th s
  | .hrtOverrun k => runHrtOverrun a k th s
  | .hrtResync k => runHrtResync a k th s
  | .beInit k thr margin => runBeInit a k thr margin th s
  | .beLag k => runBeLag a k th s
  | .beSkip k => runBeSkip a k th s
  | .beAgain k => runBeAgain a k th s
  | .beJump k => runBeJump a k th s
  | .fltActive => (th.withResult .ok ((BitVec.ofBool (s.acqLoadActive a).1).zeroExtend 64), (s.acqLoadActive a).2)
  | .fltCode => (th.withResult .ok ((s.rlxLoadCode a).1.zeroExtend 64), (s.rlxLoadCode a).2)
  | .fltData => (th.withResult .ok ((s.rlxLoadData a).1.zeroExtend 64), (s.rlxLoadData a).2)
  | .fltCount => (th.withResult .ok ((s.rlxLoadCount a).1.zeroExtend 64), (s.rlxLoadCount a).2)
  | .latch => (th, s.takeLatch th.kind th.value)
  | .faultCheck x => runFaultCheck a x th s

/-! ### Responses -/

/-- The command of agent `a` has ended with response `r`: no command is in progress on its port. -/
def State.respond (s : State) (a : Agent) (r : Response) : State :=
  s.setPort a { s.port a with thread := none, response := some r }

/-- The response of a command that fails a check: `KIND = 0` and `V = 0` (60_exceptions.md R401). -/
def errorResponse (st : Status) : Response := { status := st, kind := .ok, v := 0 }

/-- The command of agent `a` has run to its end. -/
def State.finish (s : State) (a : Agent) (th : Thread) : State :=
  s.respond a { status := .ok, kind := th.kind, v := th.value }

/-- Agent `a` is switched out: what is left of its command waits on its port. -/
def State.park (s : State) (a : Agent) (th : Thread) : State := s.setPort a { s.port a with thread := some th }

/-! ### Running -/

/-- A slice long enough for any command (log entry 16): no command of the block has more than 24 entries. -/
def sliceFuel : Nat := 40

/-- One micro-step of the slice's budget is used up. -/
def State.spend (s : State) : State := { s with turn := { s.turn with budget := s.turn.budget.map (· - 1) } }

/-- Runs a command of agent `a`: its micro-steps one after the other, silent entries with the micro-step before them, until
it ends or the slice's budget is used up (20_memory.md R100; log entry 2). -/
def drive (a : Agent) : Nat → Thread → State → State
  | 0, th, s => s.park a th
  | n + 1, th, s =>
    match th.ops with
    | [] => s.finish a th
    | op :: rest =>
      if op.silent then
        drive a n (op.perform a { th with ops := rest } s).1 (op.perform a { th with ops := rest } s).2
      else if s.turn.budget = some 0 then s.park a th
      else
        drive a n (op.perform a { th with ops := rest } s.spend).1 (op.perform a { th with ops := rest } s.spend).2

/-! ### Issuing -/

/-- The status of the first failing check, in the order they are listed (60_exceptions.md R403). -/
def firstFailure : List (Status × Bool) → Option Status
  | [] => none
  | (st, ok) :: rest => if ok then firstFailure rest else some st

/-- Issues a command of the agent being served: every check before the first micro-step; a command that fails one is
answered and does nothing (60_exceptions.md R400, R401), one that passes runs. `body` gives its thread, and the state after the
private work that comes before its first micro-step. -/
def State.issue (s : State) (checks : List (Status × Bool)) (body : State → Thread × State) :
    Host.Outcome State Fault Refusal :=
  match firstFailure checks with
  | some st => .next (s.respond s.turn.agent (errorResponse st))
  | none => .next (drive s.turn.agent sliceFuel (body s).1 (body s).2)

/-- A thread that runs `ops` and answers `OK` with `v` unless they say otherwise. -/
def Thread.start (ops : List Op) (v : Word64) : Thread := { ops := ops, kind := .ok, value := v, overlapped := false }

/-! ### The checks (60_exceptions.md R403 to R410) -/

/-- The issuer is P. -/
def State.byProducer (s : State) : Bool := s.turn.agent == .producer

/-- The issuer is O. -/
def State.byOperator (s : State) : Bool := s.turn.agent == .operator

/-- The context is the issuer's own, and exists (60_exceptions.md R405; 30_encoding.md R127). -/
def State.ownsContext (s : State) (k : CtxIdx) : Bool :=
  s.turn.agent.ownContext == some k && decide (k.toNat < s.params.nc)

/-- The context has been initialised (60_exceptions.md R406). -/
def State.ctxReady (s : State) (k : CtxIdx) : Bool := (s.ctx k).mode != .none

/-- The FSM has been configured (60_exceptions.md R406). -/
def State.fsmReady (s : State) : Bool := s.fsm.cfg.wpm != 0#8

end Sys2Proof.Machine
end

