-- ==== Sys2Proof/Machine/BestEffort.lean ====
section
/-!
DEFINITION. The Best-Effort Consumer commands (42_be_consumer.md R260 to R262).
-/

namespace Sys2Proof.Machine

/-- BE_INIT (42_be_consumer.md R260): any mode may be re-initialised. -/
def execBeInit (k : CtxIdx) (a b : Word64) (s : State) : Host.Outcome State Fault Refusal :=
  s.issue [(.errRole, s.ownsContext k), (.errBadArg, wordOperandOk a && wordOperandOk b)] fun t =>
    (Thread.start [.beInit k (operandWord a) (operandWord b)] 0, t)

/-- BE_TICK (42_be_consumer.md R261). -/
def execBeTick (k : CtxIdx) (s : State) : Host.Outcome State Fault Refusal :=
  s.issue [(.errRole, s.ownsContext k), (.errNotReady, s.ctxReady k), (.errMode, (s.ctx k).mode == .be)] fun t =>
    (Thread.start [.beLag k] 0, t)

/-- BE_DROPPED (42_be_consumer.md R262): the counter is private to the issuer, so no micro-step is needed. -/
def execBeDropped (k : CtxIdx) (s : State) : Host.Outcome State Fault Refusal :=
  s.issue [(.errRole, s.ownsContext k), (.errNotReady, s.ctxReady k), (.errMode, (s.ctx k).mode == .be)] fun t =>
    (Thread.start [] ((t.ctx k).dropped.zeroExtend 64), t)

end Sys2Proof.Machine
end

