-- ==== Sys2Proof/Machine/FaultState.lean ====
section
/-!
DEFINITION. The Fault State commands (43_fault.md R282, R285 to R289).
-/

namespace Sys2Proof.Machine

/-- FLT_SET (43_fault.md R282): P or O, code 1 to 4. -/
def execFltSet (a b : Word64) (s : State) : Host.Outcome State Fault Refusal :=
  s.issue [(.errRole, s.byProducer || s.byOperator), (.errBadArg, codeOperandOk a && wordOperandOk b)] fun t =>
    (Thread.start (faultSetNumberOps (operandCode a) (operandWord b)) 0, t)

/-- FLT_CLEAR (43_fault.md R285): O only. -/
def execFltClear (s : State) : Host.Outcome State Fault Refusal :=
  s.issue [(.errRole, s.byOperator)] fun t => (Thread.start faultClearOps 0, t)

/-- FLT_ACTIVE (43_fault.md R286): any agent. -/
def execFltActive (s : State) : Host.Outcome State Fault Refusal :=
  s.issue [] fun t => (Thread.start [.fltActive] 0, t)

/-- FLT_CODE (43_fault.md R287): any agent. -/
def execFltCode (s : State) : Host.Outcome State Fault Refusal :=
  s.issue [] fun t => (Thread.start [.fltCode] 0, t)

/-- FLT_DATA (43_fault.md R288): any agent. -/
def execFltData (s : State) : Host.Outcome State Fault Refusal :=
  s.issue [] fun t => (Thread.start [.fltData] 0, t)

/-- FLT_COUNT (43_fault.md R289): any agent. -/
def execFltCount (s : State) : Host.Outcome State Fault Refusal :=
  s.issue [] fun t => (Thread.start [.fltCount] 0, t)

end Sys2Proof.Machine
end

