-- ==== Sys2Proof/Machine/HardRt.lean ====
section
/-!
DEFINITION. The Hard-RT Consumer commands (41_hrt_consumer.md R240 to R242).
-/

namespace Sys2Proof.Machine

/-- HRT_INIT (41_hrt_consumer.md R240): any mode may be re-initialised. -/
def execHrtInit (k : CtxIdx) (a : Word64) (s : State) : Host.Outcome State Fault Refusal :=
  s.issue [(.errRole, s.ownsContext k), (.errBadArg, wordOperandOk a)] fun t =>
    (Thread.start [.hrtInit k (operandWord a)] 0, t)

/-- HRT_TICK (41_hrt_consumer.md R241). -/
def execHrtTick (k : CtxIdx) (s : State) : Host.Outcome State Fault Refusal :=
  s.issue [(.errRole, s.ownsContext k), (.errNotReady, s.ctxReady k), (.errMode, (s.ctx k).mode == .hrt)] fun t =>
    (Thread.start (hrtBodyOps k) 0, t)

/-- HRT_RESYNC (41_hrt_consumer.md R242). -/
def execHrtResync (k : CtxIdx) (s : State) : Host.Outcome State Fault Refusal :=
  s.issue [(.errRole, s.ownsContext k), (.errNotReady, s.ctxReady k), (.errMode, (s.ctx k).mode == .hrt)] fun t =>
    (Thread.start [.hrtResync k] 0, t)

end Sys2Proof.Machine
end

