-- ==== Sys2Proof/Machine/Iambic.lean ====
section
/-!
DEFINITION. The Iambic Processor: the timing and the steps of one tick (44_iambic.md R300, R302 to R309). It is private to the
producer (10_state.md R68), so it is a function on its own record.
-/

namespace Sys2Proof.Machine

/-- `DitDuration(wpm) = floor(1200000 / wpm)` microseconds, 32 bits (44_iambic.md R300; 00_scope.md R10). -/
def ditDuration (wpm : BitVec 8) : Word32 := BitVec.ofNat 32 (1200000 / wpm.toNat)

/-- `Opposite` (00_scope.md R18). -/
def opposite : Element → Element
  | .none => .dit
  | .dit => .dah
  | .dah => .dit

/-- Whether the FSM is inside an element. -/
def FsmState.sending : FsmState → Bool
  | .sendDit => true
  | .sendDah => true
  | .idle => false
  | .gap => false

/-- `Arm(st0, p)`: paddle-memory arming on a tick that starts outside IDLE (44_iambic.md R303). -/
def Iambic.arm (f : Iambic) (st0 : FsmState) (p : Paddles) : Iambic :=
  if st0 = .idle then f
  else
    { f with
      ditMem := f.ditMem || (p.getLsbD 0 && f.cfg.ditMemEn)
      dahMem := f.dahMem || (p.getLsbD 1 && f.cfg.dahMemEn) }

/-- `TrackSqueeze(st0, p)`: the squeeze-seen flag (44_iambic.md R304). -/
def Iambic.trackSqueeze (f : Iambic) (st0 : FsmState) (p : Paddles) : Iambic :=
  let seen := f.sqz || (st0.sending && p == 3#2)
  { f with sqz := seen && (f.cfg.modeB || p == 3#2) }

/-- `EndElement(now, d)` (44_iambic.md R305). -/
def Iambic.endElement (f : Iambic) (now d : Word64) : Iambic :=
  { f with
    key := false
    lastEl := if f.st = .sendDit then .dit else .dah
    st := .gap
    deadline := now + d }

/-- The end of a gap (44_iambic.md R306). -/
def Iambic.endGap (f : Iambic) : Iambic := { f with st := .idle }

/-- `NextElement(p)`: the next-element decision, first match wins (44_iambic.md R308). -/
def Iambic.nextElement (f : Iambic) (p : Paddles) : Element × Iambic :=
  if f.ditMem then (.dit, { f with ditMem := false })
  else if f.dahMem then (.dah, { f with dahMem := false })
  else if f.cfg.modeB && f.sqz && p != 3#2 then (opposite f.lastEl, { f with sqz := false })
  else if p = 3#2 then (opposite f.lastEl, f)
  else if p = 1#2 then (.dit, f)
  else if p = 2#2 then (.dah, f)
  else (.none, { f with sqz := false })

/-- `StartNext(now, p, d)`: the IDLE evaluation (44_iambic.md R307). -/
def Iambic.startNext (f : Iambic) (now : Word64) (p : Paddles) (d : Word64) : Iambic :=
  match f.nextElement p with
  | (.dit, g) => { g with st := .sendDit, key := true, deadline := now + d }
  | (.dah, g) => { g with st := .sendDah, key := true, deadline := now + 3#64 * d }
  | (.none, g) => g

/-- The transition of the tick that starts in `f.st`: the end of an element, or of a gap, once the deadline is reached
(44_iambic.md R302). -/
def Iambic.reachDeadline (f : Iambic) (now d : Word64) : Iambic :=
  if f.st.sending && decide (f.deadline ≤ now) then f.endElement now d
  else if f.st = .gap ∧ f.deadline ≤ now then f.endGap
  else f

/-- `Output(p)`: the Sample of the tick (44_iambic.md R309). -/
def Iambic.output (f : Iambic) (p : Paddles) : Sample := sampleOf 0 0 0 f.key p

/-- The FSM after one tick (44_iambic.md R302, `IamStep`). -/
def Iambic.tick (f : Iambic) (now : Word64) (p : Paddles) : Iambic :=
  let d := (ditDuration f.cfg.wpm).zeroExtend 64
  let g := ((f.arm f.st p).trackSqueeze f.st p).reachDeadline now d
  if g.st = .idle then g.startNext now p d else g

end Sys2Proof.Machine
end

