-- ==== Sys2Proof/Machine/Keyer.lean ====
section
/-!
DEFINITION. The Iambic Keyer FSM commands (44_iambic.md R301, R302) and the producer tick (45_producer.md R340).
-/

namespace Sys2Proof.Machine

/-- IAM_CFG (44_iambic.md R301): accepted only while the FSM is idle. -/
def execIamCfg (a : Word64) (s : State) : Host.Outcome State Fault Refusal :=
  s.issue [(.errRole, s.byProducer), (.errBadArg, configOperandOk a), (.errBusy, s.fsm.st == .idle)] fun t =>
    (Thread.start [] 0, { t with fsm := { t.fsm with cfg := operandConfig a } })

/-- IAM_TICK (44_iambic.md R302): `V` is the FSM sample. -/
def execIamTick (a b : Word64) (s : State) : Host.Outcome State Fault Refusal :=
  s.issue [(.errRole, s.byProducer), (.errNotReady, s.fsmReady), (.errBadArg, paddleOperandOk b)] fun t =>
    let f := t.fsm.tick a (operandPaddles b)
    (Thread.start [] ((f.output (operandPaddles b)).zeroExtend 64), { t with fsm := f })

/-- The tick of PROD_TICK after its checks: the FSM, the push, the fault of a push that is not accepted (never taken, 92_eei_decisions.md
D16, D52), the hard-RT step of context 0, the latch, the fault check (45_producer.md R340). -/
def State.prodTickBody (t : State) (now : Word64) (p : Paddles) : Thread × State :=
  let f := t.fsm.tick now p
  let x := f.output p
  match { t with fsm := f }.pushBody x with
  | (accepted, ops, t1) =>
    (Thread.start
      (ops ++ (if accepted then [] else faultSetOps .producerOverrun 0#32) ++ hrtBodyOps 0#4 ++ [.latch, .faultCheck x]) 0, t1)

/-- PROD_TICK (45_producer.md R340). -/
def execProdTick (a b : Word64) (s : State) : Host.Outcome State Fault Refusal :=
  s.issue [(.errRole, s.byProducer), (.errNotReady, s.ctxReady 0#4 && s.fsmReady), (.errMode, (s.ctx 0#4).mode == .hrt),
      (.errBadArg, paddleOperandOk b)] fun t =>
    t.prodTickBody a (operandPaddles b)

end Sys2Proof.Machine
end

