-- ==== Sys2Proof/Machine/Stream.lean ====
section
/-!
DEFINITION. The Keying Stream commands (40_stream.md R200, R207 to R213).
-/

namespace Sys2Proof.Machine

/-- STRM_INIT (40_stream.md R200). -/
def execStrmInit (s : State) : Host.Outcome State Fault Refusal :=
  s.issue [(.errRole, s.byProducer)] fun t => (Thread.start [.strmZero, .strmPublish] 0, t)

/-- PUSH (40_stream.md R207): `V = 1`, the return value of an accepted push. -/
def execPush (a : Word64) (s : State) : Host.Outcome State Fault Refusal :=
  s.issue [(.errRole, s.byProducer), (.errBadArg, sampleOperandOk a)] fun t =>
    match t.pushBody (operandSample a) with
    | (accepted, ops, t1) => (Thread.start ops ((BitVec.ofBool accepted).zeroExtend 64), t1)

/-- PUSH_RAW (40_stream.md R208): one slot, verbatim; LAST and IDLE_CNT unchanged. -/
def execPushRaw (a : Word64) (s : State) : Host.Outcome State Fault Refusal :=
  s.issue [(.errRole, s.byProducer), (.errBadArg, sampleOperandOk a)] fun t =>
    (Thread.start (writeSlotOps (operandSample a)) 1, t)

/-- FLUSH (40_stream.md R209). -/
def execFlush (s : State) : Host.Outcome State Fault Refusal :=
  s.issue [(.errRole, s.byProducer)] fun t => (Thread.start (flushPendingOps t.idleCnt) 0, t)

/-- READ (40_stream.md R210): any agent. -/
def execRead (a : Word64) (s : State) : Host.Outcome State Fault Refusal :=
  s.issue [(.errBadArg, wordOperandOk a)] fun t => (Thread.start (streamReadOps (operandWord a) .plain) 0, t)

/-- WPOS (40_stream.md R211): any agent. -/
def execWpos (s : State) : Host.Outcome State Fault Refusal :=
  s.issue [] fun t => (Thread.start [.wpos] 0, t)

/-- LAG (40_stream.md R212): any agent. -/
def execLag (a : Word64) (s : State) : Host.Outcome State Fault Refusal :=
  s.issue [(.errBadArg, wordOperandOk a)] fun t => (Thread.start [.lag (operandWord a)] 0, t)

/-- OVERRUN (40_stream.md R213): any agent. -/
def execOverrun (a : Word64) (s : State) : Host.Outcome State Fault Refusal :=
  s.issue [(.errBadArg, wordOperandOk a)] fun t => (Thread.start [.overrun (operandWord a)] 0, t)

end Sys2Proof.Machine
end

