-- ==== Sys2Proof/Machine/Dispatch.lean ====
section
/-!
DEFINITION. The meaning of every command, issued by the agent that is being served (30_encoding.md R150).
-/

namespace Sys2Proof.Machine

def exec (i : Instr) (s : State) : Host.Outcome State Fault Refusal :=
  match i with
  | .strmInit => Sys2Proof.Machine.execStrmInit s
  | .push a => Sys2Proof.Machine.execPush a s
  | .pushRaw a => Sys2Proof.Machine.execPushRaw a s
  | .flush => Sys2Proof.Machine.execFlush s
  | .read a => Sys2Proof.Machine.execRead a s
  | .wpos => Sys2Proof.Machine.execWpos s
  | .lag a => Sys2Proof.Machine.execLag a s
  | .overrun a => Sys2Proof.Machine.execOverrun a s
  | .hrtInit k a => Sys2Proof.Machine.execHrtInit k a s
  | .hrtTick k => Sys2Proof.Machine.execHrtTick k s
  | .hrtResync k => Sys2Proof.Machine.execHrtResync k s
  | .beInit k a b => Sys2Proof.Machine.execBeInit k a b s
  | .beTick k => Sys2Proof.Machine.execBeTick k s
  | .beDropped k => Sys2Proof.Machine.execBeDropped k s
  | .fltSet a b => Sys2Proof.Machine.execFltSet a b s
  | .fltClear => Sys2Proof.Machine.execFltClear s
  | .fltActive => Sys2Proof.Machine.execFltActive s
  | .fltCode => Sys2Proof.Machine.execFltCode s
  | .fltData => Sys2Proof.Machine.execFltData s
  | .fltCount => Sys2Proof.Machine.execFltCount s
  | .iamCfg a => Sys2Proof.Machine.execIamCfg a s
  | .iamTick a b => Sys2Proof.Machine.execIamTick a b s
  | .prodTick a b => Sys2Proof.Machine.execProdTick a b s

end Sys2Proof.Machine
end

