-- ==== Sys2Proof/Decode.lean ====
section
/-!
DEFINITION. Decoding of a command (30_encoding.md R121, R126, R150, R151), total on every triple of words and rejecting by
name, and the encoder, written apart from it.
-/

namespace Sys2Proof

/-- Why a header names no command. Each is answered with ERR_ILLEGAL (60_exceptions.md R404). -/
inductive DecodeError where
  /-- The opcode `H[7:0]` is none of the 23 (30_encoding.md R151). -/
  | unknownOpcode
  /-- A bit of `H[31:12]` is set (30_encoding.md R121, R151). -/
  | reservedHeaderBits
  /-- `H[11:8]` is not 0 and the opcode is no consumer opcode (30_encoding.md R121, R151). -/
  | contextOnNonConsumer
deriving DecidableEq, Repr

/-- The names of the rows of the opcode table (30_encoding.md R150). -/
inductive Opcode where
  | strmInit | push | pushRaw | flush | read | wpos | lag | overrun
  | hrtInit | hrtTick | hrtResync | beInit | beTick | beDropped
  | fltSet | fltClear | fltActive | fltCode | fltData | fltCount
  | iamCfg | iamTick | prodTick
deriving DecidableEq, Repr

/-- A row of the opcode table: a header `H` matches it when `H & mask = pattern` (30_encoding.md R150). -/
structure OpcodeRow where
  op : Opcode
  pattern : Word32
  mask : Word32
deriving DecidableEq, Repr

/-- The rows with no context field (mask 0xFFFFFFFF, 30_encoding.md R150). -/
def plainRows : List OpcodeRow :=
  [ ⟨.strmInit, 0x00000010, 0xFFFFFFFF⟩, ⟨.push, 0x00000011, 0xFFFFFFFF⟩, ⟨.pushRaw, 0x00000012, 0xFFFFFFFF⟩,
    ⟨.flush, 0x00000013, 0xFFFFFFFF⟩, ⟨.read, 0x00000014, 0xFFFFFFFF⟩, ⟨.wpos, 0x00000015, 0xFFFFFFFF⟩,
    ⟨.lag, 0x00000016, 0xFFFFFFFF⟩, ⟨.overrun, 0x00000017, 0xFFFFFFFF⟩,
    ⟨.fltSet, 0x00000030, 0xFFFFFFFF⟩, ⟨.fltClear, 0x00000031, 0xFFFFFFFF⟩, ⟨.fltActive, 0x00000032, 0xFFFFFFFF⟩,
    ⟨.fltCode, 0x00000033, 0xFFFFFFFF⟩, ⟨.fltData, 0x00000034, 0xFFFFFFFF⟩, ⟨.fltCount, 0x00000035, 0xFFFFFFFF⟩,
    ⟨.iamCfg, 0x00000040, 0xFFFFFFFF⟩, ⟨.iamTick, 0x00000041, 0xFFFFFFFF⟩, ⟨.prodTick, 0x00000050, 0xFFFFFFFF⟩ ]

/-- The consumer rows, whose context nibble `H[11:8]` is free (mask 0xFFFFF0FF, 30_encoding.md R150; 90_conflicts.md C12). -/
def consumerRows : List OpcodeRow :=
  [ ⟨.hrtInit, 0x00000020, 0xFFFFF0FF⟩, ⟨.hrtTick, 0x00000021, 0xFFFFF0FF⟩, ⟨.hrtResync, 0x00000022, 0xFFFFF0FF⟩,
    ⟨.beInit, 0x00000028, 0xFFFFF0FF⟩, ⟨.beTick, 0x00000029, 0xFFFFF0FF⟩, ⟨.beDropped, 0x0000002A, 0xFFFFF0FF⟩ ]

/-- The opcode table: "These are the only 23 commands" (30_encoding.md R150). -/
def opcodeRows : List OpcodeRow := plainRows ++ consumerRows

/-- `H & mask = pattern` (30_encoding.md R150). -/
def OpcodeRow.accepts (r : OpcodeRow) (h : Word32) : Bool := h &&& r.mask == r.pattern

/-- The context field `H[11:8]` (30_encoding.md R121). -/
def headerCtx (h : Word32) : CtxIdx := h.extractLsb' 8 4

/-- The opcode field `H[7:0]` (30_encoding.md R121). -/
def headerOpc (h : Word32) : BitVec 8 := h.extractLsb' 0 8

/-- The command a row stands for, with the operand words it uses (30_encoding.md R145). -/
def Opcode.instr (op : Opcode) (k : CtxIdx) (a b : Word64) : Instr :=
  match op with
  | .strmInit => .strmInit
  | .push => .push a
  | .pushRaw => .pushRaw a
  | .flush => .flush
  | .read => .read a
  | .wpos => .wpos
  | .lag => .lag a
  | .overrun => .overrun a
  | .hrtInit => .hrtInit k a
  | .hrtTick => .hrtTick k
  | .hrtResync => .hrtResync k
  | .beInit => .beInit k a b
  | .beTick => .beTick k
  | .beDropped => .beDropped k
  | .fltSet => .fltSet a b
  | .fltClear => .fltClear
  | .fltActive => .fltActive
  | .fltCode => .fltCode
  | .fltData => .fltData
  | .fltCount => .fltCount
  | .iamCfg => .iamCfg a
  | .iamTick => .iamTick a b
  | .prodTick => .prodTick a b

/-- Why a header that no row accepts is illegal (30_encoding.md R151). -/
def rejection (h : Word32) : DecodeError :=
  if opcodeRows.all (fun r => r.pattern.extractLsb' 0 8 != headerOpc h) then .unknownOpcode
  else if h.extractLsb' 12 20 != 0#20 then .reservedHeaderBits
  else .contextOnNonConsumer

/-- The decoder: the header alone decides which command a triple is (30_encoding.md R126). -/
def decode (c : Command) : Except DecodeError Instr :=
  match opcodeRows.find? (fun r => r.accepts c.h) with
  | some r => .ok (r.op.instr (headerCtx c.h) c.a c.b)
  | none => .error (rejection c.h)

/-- The header of a consumer command: the opcode and the context nibble (30_encoding.md R121, R155: `H = OPC | (k << 8)`). -/
def consumerHeader (opc : BitVec 8) (k : CtxIdx) : Word32 := 0#20 ++ k ++ opc

/-- The encoder: the triple of a command, unused operand words 0 (30_encoding.md R150, R155). -/
def encode : Instr → Command
  | .strmInit => ⟨0x10, 0, 0⟩
  | .push a => ⟨0x11, a, 0⟩
  | .pushRaw a => ⟨0x12, a, 0⟩
  | .flush => ⟨0x13, 0, 0⟩
  | .read a => ⟨0x14, a, 0⟩
  | .wpos => ⟨0x15, 0, 0⟩
  | .lag a => ⟨0x16, a, 0⟩
  | .overrun a => ⟨0x17, a, 0⟩
  | .hrtInit k a => ⟨consumerHeader 0x20 k, a, 0⟩
  | .hrtTick k => ⟨consumerHeader 0x21 k, 0, 0⟩
  | .hrtResync k => ⟨consumerHeader 0x22 k, 0, 0⟩
  | .beInit k a b => ⟨consumerHeader 0x28 k, a, b⟩
  | .beTick k => ⟨consumerHeader 0x29 k, 0, 0⟩
  | .beDropped k => ⟨consumerHeader 0x2A k, 0, 0⟩
  | .fltSet a b => ⟨0x30, a, b⟩
  | .fltClear => ⟨0x31, 0, 0⟩
  | .fltActive => ⟨0x32, 0, 0⟩
  | .fltCode => ⟨0x33, 0, 0⟩
  | .fltData => ⟨0x34, 0, 0⟩
  | .fltCount => ⟨0x35, 0, 0⟩
  | .iamCfg a => ⟨0x40, a, 0⟩
  | .iamTick a b => ⟨0x41, a, b⟩
  | .prodTick a b => ⟨0x50, a, b⟩

/-- A number of at most 160 bits as a command: bits 31..0 the header, 95..32 the word `A`, 159..96 the word `B`.
DESIGN CHOICE: 30_encoding.md R120 and R153 give a command three words and no order for them in one number (log entry 23). -/
def commandOfNat (n : Nat) : Command :=
  { h := BitVec.ofNat 32 n, a := BitVec.ofNat 64 (n / 2 ^ 32), b := BitVec.ofNat 64 (n / 2 ^ 96) }

/-- The command that the `nbits` low bits of `w` spell, every bit above them 0; the words lie as in `commandOfNat` (log entry 23). -/
def tableCommand (nbits w : Nat) : Command := commandOfNat (w % 2 ^ nbits)

/-- What the decoder reads from the command that the `nbits` low bits of `w` spell. -/
def decodeTableWord (nbits w : Nat) : Option Instr :=
  match decode (tableCommand nbits w) with
  | .ok i => some i
  | .error _ => none

/-- The little-endian number a list of bytes carries: byte `n` is bits `[8n+7 : 8n]` (20_memory.md R84). -/
def natOfBytes : List (BitVec 8) → Nat
  | [] => 0
  | x :: rest => x.toNat + 256 * natOfBytes rest

/-- The `n` bytes that carry a number, little-endian (20_memory.md R84). -/
def bytesOfNat : Nat → Nat → List (BitVec 8)
  | 0, _ => []
  | n + 1, v => BitVec.ofNat 8 v :: bytesOfNat n (v / 256)

/-- A command carried as bytes on a host bus: 20 bytes, each word little-endian (20_memory.md R84). Fewer or more bytes are no
command (30_encoding.md R153: one fixed length).
DESIGN CHOICE: that the header comes first, then `A`, then `B`; R84 orders the bytes inside a word only (log entry 23). -/
def commandOfBytes (bs : List (BitVec 8)) : Option Command :=
  if bs.length = 20 then some (commandOfNat (natOfBytes bs)) else none

/-- The bytes of a command, each word little-endian (20_memory.md R84).
DESIGN CHOICE: the order of the words, the header first, then `A`, then `B` (log entry 23). -/
def Command.bytes (c : Command) : List (BitVec 8) :=
  bytesOfNat 4 c.h.toNat ++ bytesOfNat 8 c.a.toNat ++ bytesOfNat 8 c.b.toNat

end Sys2Proof
end

