-- ==== Sys2Proof/Machine/Fetch.lean ====
section
/-!
DEFINITION. What a step does around a command: which ports exist, serving a slice of the schedule, taking the next command
from a port, going on with a command in progress, reset, and the placing of one command for the next step.
-/

namespace Sys2Proof.Machine

/-- Whether the block has this agent's port: P, R1 to R(NC-1) and O (00_scope.md R6, R8). -/
def State.hasPort (s : State) (a : Agent) : Bool :=
  match a with
  | .producer => true
  | .reader n => decide (n.val + 1 < s.params.nc)
  | .operator => true

/-- Whether some agent has a command in progress. -/
def State.anyInProgress (s : State) : Bool := s.ports.any fun e => e.2.thread.isSome

/-- The state that serves a slice: it is the current one, and the rest of the schedule remains. -/
def State.serving (s : State) (slice : Slice) (rest : List Turn) : State := { s with turn := slice, turns := rest }

/-- Reset (70_reset_and_hazards.md R450): every element of the block at its reset value, in one step. The commands the agents
have not issued yet, the rest of the schedule and the count of draws are outside the block and stay (log entry 18). -/
def State.resetBlock (s : State) (rest : List Turn) : State :=
  { State.resetWith s.params with inboxes := s.inboxes, turns := rest, draws := s.draws }

/-- Agent `a` goes on with its command in progress. -/
def State.resume (s : State) (a : Agent) (th : Thread) : State :=
  drive a sliceFuel th (s.setPort a { s.port a with thread := none })

/-- The answer to a header that names no command (60_exceptions.md R404). -/
def State.answerIllegal (s : State) : State := s.respond s.turn.agent (errorResponse .errIllegal)

/-- The agent that may issue the command a header names, for `State.withFetchWord`: O for FLT_CLEAR, the owner of the context
for a consumer command, P for everything else (60_exceptions.md R410). -/
def issuerOf (c : Command) : Agent :=
  if c.h = 0x31#32 then .operator
  else if consumerRows.any (fun r => r.accepts c.h) then
    if h : 1 ≤ (headerCtx c.h).toNat then
      .reader ⟨(headerCtx c.h).toNat - 1, by have := (headerCtx c.h).isLt; omega⟩
    else .producer
  else .producer

/-- Places a command so that the very next step issues it: it is the head of its agent's queue, its agent is served next
and is not switched out, and has no command in progress (log entry 11). -/
def State.placeCommand (s : State) (a : Agent) (c : Command) : State :=
  let s1 := (s.setInbox a (c :: s.inbox a)).setPort a { s.port a with thread := none }
  { s1 with turns := .serve { agent := a, budget := none, ages := [] } :: s.turns }

/-! ### Pseudo-instructions (30_encoding.md R156; the block never sees them) -/

/-- `SHUTDOWN`: FLUSH by P (70_reset_and_hazards.md R453). -/
def pseudoShutdown : List (Agent × Command) := [(.producer, encode .flush)]

/-- The agent that owns context `k` (30_encoding.md R127). -/
def ownerOf (k : CtxIdx) : Agent :=
  if h : 1 ≤ k.toNat then .reader ⟨k.toNat - 1, by have := k.isLt; omega⟩ else .producer

/-- `RECOVER k1, k2, ...`: FLT_CLEAR by O, then HRT_RESYNC by the owner of each context (60_exceptions.md R415). -/
def pseudoRecover (ks : List CtxIdx) : List (Agent × Command) :=
  (.operator, encode .fltClear) :: ks.map fun k => (ownerOf k, encode (.hrtResync k))

end Sys2Proof.Machine
end

