-- ==== Sys2Proof/Machine/Step.lean ====
section
/-!
DEFINITION. One step of the block: the next entry of the schedule. An agent that is served goes on with its command in
progress, or issues the next command queued at its port (30_encoding.md R120; 20_memory.md R100).
-/

namespace Sys2Proof.Machine

/-- Serves a slice: the agent's command in progress, or its next command, or nothing if it has none. -/
def serve (slice : Slice) (s : State) : Host.Outcome State Fault Refusal :=
  match (s.port slice.agent).thread with
  | some th => .next (s.resume slice.agent th)
  | none =>
    match s.inbox slice.agent with
    | [] => .next s
    | c :: rest =>
      match decode c with
      | .error _ => .next (s.setInbox slice.agent rest).answerIllegal
      | .ok i => exec i (s.setInbox slice.agent rest)

/-- One step. With nothing scheduled the block holds its state: it waits for commands (70_reset_and_hazards.md R450;
60_exceptions.md R424; log entry 3). -/
def step (s : State) : Host.Outcome State Fault Refusal :=
  match s.turns with
  | [] => .next s
  | .reset :: rest => if s.anyInProgress then .refused .resetDuringCommand else .next (s.resetBlock rest)
  | .serve slice :: rest =>
    if s.hasPort slice.agent then serve slice (s.serving slice rest) else .refused .noSuchPort

/-- The state in which the very next step issues the command that the `nbits` low bits of `w` spell. -/
def State.withFetchWord (s : State) (nbits w : Nat) : State :=
  s.placeCommand (issuerOf (tableCommand nbits w)) (tableCommand nbits w)

end Sys2Proof.Machine
end

