-- ==== Sys2Proof/WellFormed.lean ====
section
/-!
DEFINITION. Which commands carry legal operands (30_encoding.md R122, R136, R140 to R144; 60_exceptions.md R408): every bit
of a used operand word outside its fields is 0, and every field has a legal value. A command that is not well formed is
still decoded and still answered (with ERR_BAD_ARG, after the checks that come first): this file says which ones those are,
by masks and ranges, apart from the checks of Machine/Operands.lean that the machine runs.
-/

namespace Sys2Proof

namespace WellFormed

/-- `A[63:48]` and the reserved Sample bits `[7:2]`, `[15:9]`, `[31:29]` are 0 (30_encoding.md R136, R145). -/
def sampleWord (a : Word64) : Bool := a &&& 0xFFFF0000E000FEFC#64 == 0#64

/-- A 32-bit field in a 64-bit operand word, with nothing above it (30_encoding.md R142, R143, R144). -/
def word32 (a : Word64) : Bool := decide (a.toNat < 2 ^ 32)

/-- A fault code 1 to 4 and nothing above it (30_encoding.md R143; 10_state.md R45). -/
def faultCode (a : Word64) : Bool := decide (1 ≤ a.toNat ∧ a.toNat ≤ 4)

/-- A configuration word: 11 bits, with a speed of at least 1 (30_encoding.md R140). -/
def configWord (a : Word64) : Bool := decide (a.toNat < 2 ^ 11 ∧ a.toNat % 256 ≠ 0)

/-- A paddle word: two bits (30_encoding.md R141). -/
def paddleWord (b : Word64) : Bool := decide (b.toNat < 4)

end WellFormed

/-- The command's operands are legal. -/
def Instr.wellFormed : Instr → Bool
  | .strmInit => true
  | .push a => WellFormed.sampleWord a
  | .pushRaw a => WellFormed.sampleWord a
  | .flush => true
  | .read a => WellFormed.word32 a
  | .wpos => true
  | .lag a => WellFormed.word32 a
  | .overrun a => WellFormed.word32 a
  | .hrtInit _ a => WellFormed.word32 a
  | .hrtTick _ => true
  | .hrtResync _ => true
  | .beInit _ a b => WellFormed.word32 a && WellFormed.word32 b
  | .beTick _ => true
  | .beDropped _ => true
  | .fltSet a b => WellFormed.faultCode a && WellFormed.word32 b
  | .fltClear => true
  | .fltActive => true
  | .fltCode => true
  | .fltData => true
  | .fltCount => true
  | .iamCfg a => WellFormed.configWord a
  | .iamTick _ b => WellFormed.paddleWord b
  | .prodTick _ b => WellFormed.paddleWord b

end Sys2Proof
end

