-- ==== Sys2Proof/Safety.lean ====
section
/-!
DEFINITION. The words the statements are written in: how a command ends, what a command leaves alone, which command errors
the spec's tables name, and the invariants of the block.
-/

namespace Sys2Proof.Machine

/-! ### How a command ends -/

/-- The agent that issues: the one being served. -/
abbrev State.issuer (s : State) : Agent := s.turn.agent

/-- The issuer is not switched out in the middle of its command. -/
def State.unlimited (s : State) : Prop := s.turn.budget = none

/-- The command `o` issued in `s` has run to its end: no command is in progress on the issuer's port, its response is `r`, and
the state it leaves satisfies `post`. -/
def Ends (s : State) (o : Host.Outcome State Fault Refusal) (r : Response) (post : State → Prop) : Prop :=
  ∃ t, o = .next t ∧ (t.port s.issuer).thread = none ∧ (t.port s.issuer).response = some r ∧ post t

/-- A response with status OK (30_encoding.md R123). -/
def okResponse (k : Kind) (v : Word64) : Response := { status := .ok, kind := k, v := v }

/-! ### What a command leaves alone -/

/-- `W`, the slots, `LAST`, `IDLE_CNT` and `PW` are as before, with every value of W a load could still return. -/
def SameStream (s t : State) : Prop :=
  t.w = s.w ∧ t.slots = s.slots ∧ t.last = s.last ∧ t.idleCnt = s.idleCnt ∧ t.pw = s.pw

/-- `ACTIVE`, `CODE`, `DATA` and `COUNT` are as before, with every value a load could still return. -/
def SameFault (s t : State) : Prop :=
  t.active = s.active ∧ t.code = s.code ∧ t.data = s.data ∧ t.count = s.count

/-- The parameters, the queues, the schedule and the ports of the other agents are as before. -/
def SameOutside (s t : State) : Prop :=
  t.params = s.params ∧ t.inboxes = s.inboxes ∧ t.turns = s.turns ∧ ∀ b, b ≠ s.issuer → t.port b = s.port b

/-- Every element of the block's state (10_state.md R30) is as before. -/
def SameBlock (s t : State) : Prop :=
  SameStream s t ∧ SameFault s t ∧ t.ctxs = s.ctxs ∧ t.fsm = s.fsm ∧ t.outLatch = s.outLatch

/-- Every context but `k` is as before. -/
def SameOtherContexts (k : CtxIdx) (s t : State) : Prop := ∀ j, j ≠ k → t.ctx j = s.ctx j

/-- Only the issuer's port may have changed: no element of the block's state, no draw. -/
def SameButPort (s t : State) : Prop := SameBlock s t ∧ SameOutside s t ∧ t.draws = s.draws

/-- Only the stream state and the issuer's port may have changed. -/
def SameButStream (s t : State) : Prop :=
  SameFault s t ∧ t.ctxs = s.ctxs ∧ t.fsm = s.fsm ∧ t.outLatch = s.outLatch ∧ SameOutside s t ∧ t.draws = s.draws

/-- Only the fault record and the issuer's port may have changed. -/
def SameButFault (s t : State) : Prop :=
  SameStream s t ∧ t.ctxs = s.ctxs ∧ t.fsm = s.fsm ∧ t.outLatch = s.outLatch ∧ SameOutside s t ∧ t.draws = s.draws

/-- Only context `k` and the issuer's port may have changed. -/
def SameButContext (k : CtxIdx) (s t : State) : Prop :=
  SameStream s t ∧ SameFault s t ∧ SameOtherContexts k s t ∧ t.fsm = s.fsm ∧ t.outLatch = s.outLatch ∧
    SameOutside s t ∧ t.draws = s.draws

/-- Only the FSM and the issuer's port may have changed. -/
def SameButFsm (s t : State) : Prop :=
  SameStream s t ∧ SameFault s t ∧ t.ctxs = s.ctxs ∧ t.outLatch = s.outLatch ∧ SameOutside s t ∧ t.draws = s.draws

/-! ### Slot writes -/

/-- The producer has written the samples `vs`, in order, at the logical indices from `W` on, each published by a store of its
own (40_stream.md R206): W has grown by as much and PW with it, the older values of W are still there, a slot holds the last
sample written to it, and every slot that none of them went to is as before. -/
def WroteSlots (vs : List Sample) (s t : State) : Prop :=
  t.w.cur = s.w.cur + BitVec.ofNat 32 vs.length ∧
    t.w.past.map Prod.fst =
      ((List.range vs.length).map fun k => s.w.cur + BitVec.ofNat 32 k).reverse ++ s.w.past.map Prod.fst ∧
    (vs ≠ [] → t.pw = t.w.cur) ∧ (vs = [] → t.pw = s.pw) ∧
    (∀ k v, vs[k]? = some v →
      (∀ m, k < m → m < vs.length → s.slotOf (s.w.cur + BitVec.ofNat 32 m) ≠ s.slotOf (s.w.cur + BitVec.ofNat 32 k)) →
      t.slot (s.slotOf (s.w.cur + BitVec.ofNat 32 k)) = v) ∧
    ∀ n, (∀ k, k < vs.length → n ≠ s.slotOf (s.w.cur + BitVec.ofNat 32 k)) → t.slot n = s.slot n

/-- The marker a push or a flush writes first: one, if ticks are pending (40_stream.md R203). -/
def pendingMarker (s : State) : List Sample := if s.idleCnt = 0 then [] else [marker s.idleCnt]

/-- `n` commands `i` issued one after the other by the agent being served; `none` if one of them is not answered. -/
def issueMany : Nat → Instr → State → Option State
  | 0, _, s => some s
  | n + 1, i, s =>
    match exec i s with
    | .next t => issueMany n i t
    | .fault _ => none
    | .refused _ => none

/-! ### What loads return -/

/-- The next loads of W by agent `a`, one after the other, return these values. -/
def State.loadsW (a : Agent) : State → List Word32 → Prop
  | _, [] => True
  | s, w :: ws => (s.acqLoadW a).1 = w ∧ State.loadsW a (s.acqLoadW a).2 ws

/-- Agent `a` has seen the latest value of W: its next load of W can return no older one (20_memory.md R103). -/
def State.seesW (s : State) (a : Agent) : Prop := s.w.top ≤ (s.view a).w

/-- Agent `a` has seen the latest value of ACTIVE (20_memory.md R106). -/
def State.seesActive (s : State) (a : Agent) : Prop := s.active.top ≤ (s.view a).active

/-- The slice asks for no older value: every load returns the latest, the simulator's choice of 20_memory.md R103. -/
def State.asksForLatest (s : State) : Prop := s.turn.ages = []

/-- The issuer's query `i` answers one of the values `value age` with `age` up to `oldest`, counted back from the latest one, and any
of them that its load asks for; `seen` then holds of the state it leaves. It changes nothing but the issuer's port. -/
def AnswersAnyOf (s : State) (i : Instr) (oldest : Nat) (value : Nat → Word64) (seen : Nat → State → Prop) : Prop :=
  (∃ age, age ≤ oldest ∧
    Ends s (exec i s) (okResponse .ok (value age)) fun t => SameButPort s t ∧ seen age t) ∧
  ∀ age, age ≤ oldest → s.turn.ages.headD 0 = age →
    Ends s (exec i s) (okResponse .ok (value age)) fun t => SameButPort s t ∧ seen age t

/-! ### The fault record -/

/-- A fault has been recorded: the code and the data are saved, the occurrence is counted, ACTIVE is set, and the pins are safe
(43_fault.md R281; 45_producer.md R342). Nothing else has changed. -/
def RecordedFault (code : BitVec 8) (data : Word32) (s t : State) : Prop :=
  t.active.cur = 1 ∧ t.code.cur = code ∧ t.data.cur = data ∧ t.count.cur = s.count.cur + 1 ∧
    t.txKey = false ∧ t.audioMute = true ∧ t.faultPin = true ∧ SameButFault s t

/-! ### The best-effort tick after its skip -/

/-- How the BE_TICK of context `k` issued in `s` goes on once its skip has left the context as `c`: `w3`, `w4` and `w5` are what
its next loads of W return (42_be_consumer.md R261 from the second lag on). It answers NO_DATA when the lag is 0; it reads the sample
at the cursor when that is in the window, and otherwise jumps to the write position, drops one and answers NO_DATA. -/
def BeTickAfterSkip (k : CtxIdx) (s : State) (c : Context) (w3 w4 w5 : Word32) : Prop :=
  (w3 = c.cur →
    Ends s (exec (.beTick k) s) (okResponse .noData 0) fun t => t.ctx k = c ∧ SameButContext k s t) ∧
  (w3 ≠ c.cur → 1 ≤ (w4 - c.cur).toNat → (w4 - c.cur).toNat ≤ 2 ^ s.params.capLog2.val → s.copyDraws false c.cur = false →
    Ends s (exec (.beTick k) s) (okResponse .ok ((s.slot (s.slotOf c.cur)).zeroExtend 64)) fun t =>
      t.ctx k = { c with cur := c.cur + 1 } ∧ SameButContext k s t) ∧
  (w3 ≠ c.cur → w4 = c.cur ∨ 2 ^ s.params.capLog2.val < (w4 - c.cur).toNat →
    Ends s (exec (.beTick k) s) (okResponse .noData 0) fun t =>
      t.ctx k = { c with cur := w5, dropped := BitVec.ofNat 32 (min (c.dropped.toNat + 1) (2 ^ 32 - 1)) } ∧
        SameButContext k s t)

/-! ### Encoding tables -/

/-- The opcodes of rule R150, by number, that are not consumer opcodes. -/
def plainOpcodes : List Nat :=
  [0x10, 0x11, 0x12, 0x13, 0x14, 0x15, 0x16, 0x17, 0x30, 0x31, 0x32, 0x33, 0x34, 0x35, 0x40, 0x41, 0x50]

/-- The consumer opcodes (60_exceptions.md R404). -/
def consumerOpcodes : List Nat := [0x20, 0x21, 0x22, 0x28, 0x29, 0x2A]

/-- A header that is not ERR_ILLEGAL, as 60_exceptions.md R404 says it. -/
def legalHeader (h : Word32) : Prop :=
  h.toNat / 2 ^ 12 = 0 ∧
    (h.toNat % 256 ∈ consumerOpcodes ∨ h.toNat % 256 ∈ plainOpcodes ∧ h.toNat / 256 % 16 = 0)

/-- Whether a command uses its word `A` (30_encoding.md R145). -/
def usesWordA : Instr → Bool
  | .push _ => true
  | .pushRaw _ => true
  | .read _ => true
  | .lag _ => true
  | .overrun _ => true
  | .hrtInit _ _ => true
  | .beInit _ _ _ => true
  | .fltSet _ _ => true
  | .iamCfg _ => true
  | .iamTick _ _ => true
  | .prodTick _ _ => true
  | .strmInit => false
  | .flush => false
  | .wpos => false
  | .hrtTick _ => false
  | .hrtResync _ => false
  | .beTick _ => false
  | .beDropped _ => false
  | .fltClear => false
  | .fltActive => false
  | .fltCode => false
  | .fltData => false
  | .fltCount => false

/-- Whether a command uses its word `B` (30_encoding.md R145). -/
def usesWordB : Instr → Bool
  | .beInit _ _ _ => true
  | .fltSet _ _ => true
  | .iamTick _ _ => true
  | .prodTick _ _ => true
  | .strmInit => false
  | .push _ => false
  | .pushRaw _ => false
  | .flush => false
  | .read _ => false
  | .wpos => false
  | .lag _ => false
  | .overrun _ => false
  | .hrtInit _ _ => false
  | .hrtTick _ => false
  | .hrtResync _ => false
  | .beTick _ => false
  | .beDropped _ => false
  | .fltClear => false
  | .fltActive => false
  | .fltCode => false
  | .fltData => false
  | .fltCount => false
  | .iamCfg _ => false

/-! ### The tables of command errors -/

/-- Which agents a row of the role table admits (60_exceptions.md R410). -/
inductive Role where
  | producerOnly
  | operatorOnly
  | producerOrOperator
  | anyAgent
  | ownerOf (k : CtxIdx)
deriving DecidableEq, Repr

/-- The role table (60_exceptions.md R410). -/
def roleOf : Instr → Role
  | .strmInit => .producerOnly
  | .push _ => .producerOnly
  | .pushRaw _ => .producerOnly
  | .flush => .producerOnly
  | .read _ => .anyAgent
  | .wpos => .anyAgent
  | .lag _ => .anyAgent
  | .overrun _ => .anyAgent
  | .hrtInit k _ => .ownerOf k
  | .hrtTick k => .ownerOf k
  | .hrtResync k => .ownerOf k
  | .beInit k _ _ => .ownerOf k
  | .beTick k => .ownerOf k
  | .beDropped k => .ownerOf k
  | .fltSet _ _ => .producerOrOperator
  | .fltClear => .operatorOnly
  | .fltActive => .anyAgent
  | .fltCode => .anyAgent
  | .fltData => .anyAgent
  | .fltCount => .anyAgent
  | .iamCfg _ => .producerOnly
  | .iamTick _ _ => .producerOnly
  | .prodTick _ _ => .producerOnly

/-- Whether a role admits an agent, in a block with `nc` contexts (60_exceptions.md R405, R410). -/
def Role.admits (r : Role) (nc : Nat) (a : Agent) : Prop :=
  match r with
  | .producerOnly => a = .producer
  | .operatorOnly => a = .operator
  | .producerOrOperator => a = .producer ∨ a = .operator
  | .anyAgent => True
  | .ownerOf k => a.ownContext = some k ∧ k.toNat < nc

/-- The conditions of ERR_NOT_READY (60_exceptions.md R406). -/
def State.notReady (s : State) : Instr → Prop
  | .hrtTick k => (s.ctx k).mode = .none
  | .hrtResync k => (s.ctx k).mode = .none
  | .beTick k => (s.ctx k).mode = .none
  | .beDropped k => (s.ctx k).mode = .none
  | .iamTick _ _ => s.fsm.cfg.wpm = 0
  | .prodTick _ _ => (s.ctx 0).mode = .none ∨ s.fsm.cfg.wpm = 0
  | .strmInit => False
  | .push _ => False
  | .pushRaw _ => False
  | .flush => False
  | .read _ => False
  | .wpos => False
  | .lag _ => False
  | .overrun _ => False
  | .hrtInit _ _ => False
  | .beInit _ _ _ => False
  | .fltSet _ _ => False
  | .fltClear => False
  | .fltActive => False
  | .fltCode => False
  | .fltData => False
  | .fltCount => False
  | .iamCfg _ => False

/-- The conditions of ERR_MODE (60_exceptions.md R407). -/
def State.otherMode (s : State) : Instr → Prop
  | .hrtTick k => (s.ctx k).mode = .be
  | .hrtResync k => (s.ctx k).mode = .be
  | .beTick k => (s.ctx k).mode = .hrt
  | .beDropped k => (s.ctx k).mode = .hrt
  | .prodTick _ _ => (s.ctx 0).mode = .be
  | .strmInit => False
  | .push _ => False
  | .pushRaw _ => False
  | .flush => False
  | .read _ => False
  | .wpos => False
  | .lag _ => False
  | .overrun _ => False
  | .hrtInit _ _ => False
  | .beInit _ _ _ => False
  | .fltSet _ _ => False
  | .fltClear => False
  | .fltActive => False
  | .fltCode => False
  | .fltData => False
  | .fltCount => False
  | .iamCfg _ => False
  | .iamTick _ _ => False

/-- The condition of ERR_BUSY (60_exceptions.md R409). -/
def State.busy (s : State) : Instr → Prop
  | .iamCfg _ => s.fsm.st ≠ .idle
  | .strmInit => False
  | .push _ => False
  | .pushRaw _ => False
  | .flush => False
  | .read _ => False
  | .wpos => False
  | .lag _ => False
  | .overrun _ => False
  | .hrtInit _ _ => False
  | .hrtTick _ => False
  | .hrtResync _ => False
  | .beInit _ _ _ => False
  | .beTick _ => False
  | .beDropped _ => False
  | .fltSet _ _ => False
  | .fltClear => False
  | .fltActive => False
  | .fltCode => False
  | .fltData => False
  | .fltCount => False
  | .iamTick _ _ => False
  | .prodTick _ _ => False

/-- The command errors of 60_exceptions.md R404 to R409 in the check order of R403, for a header that decodes: `st` is the
status of the first check that fails, and none fails before it. -/
def State.fails (s : State) (i : Instr) (st : Status) : Prop :=
  match st with
  | .ok => False
  | .errIllegal => False
  | .errRole => ¬ (roleOf i).admits s.params.nc s.issuer
  | .errNotReady => (roleOf i).admits s.params.nc s.issuer ∧ s.notReady i
  | .errMode => (roleOf i).admits s.params.nc s.issuer ∧ ¬ s.notReady i ∧ s.otherMode i
  | .errBadArg =>
    (roleOf i).admits s.params.nc s.issuer ∧ ¬ s.notReady i ∧ ¬ s.otherMode i ∧ i.wellFormed = false
  | .errBusy =>
    (roleOf i).admits s.params.nc s.issuer ∧ ¬ s.notReady i ∧ ¬ s.otherMode i ∧ i.wellFormed = true ∧ s.busy i

/-- Every check passes (60_exceptions.md R400, R403). -/
def State.admitsCommand (s : State) (i : Instr) : Prop :=
  (roleOf i).admits s.params.nc s.issuer ∧ ¬ s.notReady i ∧ ¬ s.otherMode i ∧ i.wellFormed = true ∧ ¬ s.busy i

/-! ### What may be left of a command -/

/-- What may be left of a push after any of its entries (40_stream.md R203, R206, R207). -/
def pushLeft (ops : List Op) : Prop := ∃ n x, ops <:+ flushPendingOps n ++ writeSlotOps x ++ [.setLast x]

/-- What may be left of a hard-RT tick after any of its entries: the next test, or the rest of a FaultSet (41_hrt_consumer.md R241). -/
def hrtTickLeft (k : CtxIdx) (ops : List Op) : Prop :=
  ops = [.hrtFlag k] ∨ ops = [.hrtLag k] ∨ ops = [.hrtOverrun k] ∨ (∃ i, ops = [.readLoad i (.hrt k)]) ∨
    (∃ i, ops = [.slotCopy i (.hrt k)]) ∨
    ∃ code data, (code = .latencyExceeded ∨ code = .consumerOverrun) ∧ ops <:+ faultSetOps code data ++ [.result .fault 0]

/-- What may be left of a best-effort tick after any of its entries (42_be_consumer.md R261). -/
def beTickLeft (k : CtxIdx) (ops : List Op) : Prop :=
  ops = [] ∨ ops = [.beLag k] ∨ ops = [.beSkip k] ∨ ops = [.beAgain k] ∨ ops = [.beJump k] ∨
    ∃ i skipped, ops = [.readLoad i (.be k skipped)] ∨ ops = [.slotCopy i (.be k skipped)]

/-- What may be left of a producer tick after any of its entries (45_producer.md R340). -/
def prodTickLeft (ops : List Op) : Prop :=
  ∃ x, (∃ front, pushLeft front ∧ ops = front ++ [.hrtFlag 0, .latch, .faultCheck x]) ∨
    (∃ front, hrtTickLeft 0 front ∧ ops = front ++ [.latch, .faultCheck x]) ∨ ops <:+ [.latch, .faultCheck x]

/-- What may be left of a command after any of its entries. -/
def mayBeLeft : Instr → List Op → Prop
  | .strmInit, ops => ops <:+ [.strmZero, .strmPublish]
  | .push _, ops => pushLeft ops
  | .pushRaw a, ops => ops <:+ writeSlotOps (operandSample a)
  | .flush, ops => ∃ n, ops <:+ flushPendingOps n
  | .read a, ops => ops = [] ∨ ops = [.readLoad (operandWord a) .plain] ∨ ops = [.slotCopy (operandWord a) .plain]
  | .wpos, ops => ops <:+ [.wpos]
  | .lag a, ops => ops <:+ [.lag (operandWord a)]
  | .overrun a, ops => ops <:+ [.overrun (operandWord a)]
  | .hrtInit k a, ops => ops <:+ [.hrtInit k (operandWord a)]
  | .hrtTick k, ops => hrtTickLeft k ops
  | .hrtResync k, ops => ops <:+ [.hrtResync k]
  | .beInit k a b, ops => ops <:+ [.beInit k (operandWord a) (operandWord b)]
  | .beTick k, ops => beTickLeft k ops
  | .beDropped _, ops => ops = []
  | .fltSet a b, ops => ops <:+ faultSetNumberOps (operandCode a) (operandWord b)
  | .fltClear, ops => ops <:+ faultClearOps
  | .fltActive, ops => ops <:+ [.fltActive]
  | .fltCode, ops => ops <:+ [.fltCode]
  | .fltData, ops => ops <:+ [.fltData]
  | .fltCount, ops => ops <:+ [.fltCount]
  | .iamCfg _, ops => ops = []
  | .iamTick _ _, ops => ops = []
  | .prodTick _ _, ops => prodTickLeft ops

/-- The command in progress `th` is what is left of the command `i`, and only a hard-RT tick or a producer tick is about to answer
FAULT (30_encoding.md R124, R145). -/
def Thread.isLeftOf (th : Thread) (i : Instr) : Prop :=
  mayBeLeft i th.ops ∧ (th.kind = .fault → (∃ k, i = .hrtTick k) ∨ ∃ a b, i = .prodTick a b)

/-- What is left of an agent's command in progress; nothing when there is none. -/
def State.opsLeft (s : State) (a : Agent) : List Op :=
  match (s.port a).thread with
  | some th => th.ops
  | none => []

/-- The next step runs command `i` of agent `a`: it serves `a`, and `a`'s command in progress is what is left of an `i` that `a` may
issue, or `a` has none and the next command queued at its port is `i`. -/
def State.nextRuns (s : State) (a : Agent) (i : Instr) : Prop :=
  ∃ slice rest, s.turns = .serve slice :: rest ∧ slice.agent = a ∧ s.hasPort a = true ∧
    match (s.port a).thread with
    | some th => th.isLeftOf i ∧ (roleOf i).admits s.params.nc a
    | none => ∃ c cs, s.inbox a = c :: cs ∧ decode c = .ok i

/-- The next step runs an FLT_CLEAR of the operator that has still to clear ACTIVE. -/
def State.clearsNext (s : State) : Prop :=
  ∃ slice rest, s.turns = .serve slice :: rest ∧ slice.agent = .operator ∧
    (.storeActive false ∈ s.opsLeft .operator ∨
      (s.port .operator).thread = none ∧ ∃ c cs, s.inbox .operator = c :: cs ∧ decode c = .ok .fltClear)

/-- The next step is a reset (70_reset_and_hazards.md R450). -/
def State.resetsNext (s : State) : Prop := ∃ rest, s.turns = .reset :: rest

/-! ### Invariants -/

/-- Every command in progress is what is left of a command that its agent may issue (20_memory.md R100; 60_exceptions.md R410). -/
def State.threadsOwned (s : State) : Prop :=
  ∀ a th, (s.port a).thread = some th → ∃ i, th.isLeftOf i ∧ (roleOf i).admits s.params.nc a

/-- The context a stream read is for exists (30_encoding.md R127). -/
def Reader.legal (p : Params) : Reader → Prop
  | .plain => True
  | .hrt k => k.toNat < p.nc
  | .be k _ => k.toNat < p.nc

/-- What the entries of a command in progress may hold: contexts that exist, fault codes of the enumeration, samples with no
reserved bit (10_state.md R45; 30_encoding.md R127, R136). -/
def Op.legal (p : Params) : Op → Prop
  | .strmZero => True
  | .strmPublish => True
  | .slotWriteBegin => True
  | .slotWriteEnd v => sampleReservedClear v = true
  | .publish => True
  | .clearIdle => True
  | .setLast t => sampleReservedClear t = true ∧ sampleSilence t = false
  | .storeCode c => c ≤ 4#8
  | .storeData _ => True
  | .countFault => True
  | .storeActive _ => True
  | .result _ _ => True
  | .wpos => True
  | .lag _ => True
  | .overrun _ => True
  | .readLoad _ r => r.legal p
  | .slotCopy _ r => r.legal p
  | .hrtInit k _ => k.toNat < p.nc
  | .hrtFlag k => k.toNat < p.nc
  | .hrtLag k => k.toNat < p.nc
  | .hrtOverrun k => k.toNat < p.nc
  | .hrtResync k => k.toNat < p.nc
  | .beInit k _ _ => k.toNat < p.nc
  | .beLag k => k.toNat < p.nc
  | .beSkip k => k.toNat < p.nc
  | .beAgain k => k.toNat < p.nc
  | .beJump k => k.toNat < p.nc
  | .fltActive => True
  | .fltCode => True
  | .fltData => True
  | .fltCount => True
  | .latch => True
  | .faultCheck _ => True

/-- Every command in progress holds legal entries only. -/
def State.threadsLegal (s : State) : Prop :=
  ∀ a th, (s.port a).thread = some th → ∀ op ∈ th.ops, op.legal s.params

/-- The sparse tables are canonical, and list only slots, contexts and agents that exist (10_state.md R32, R50). -/
def State.storageCanonical (s : State) : Prop :=
  Memory.wf s.params s.slots ∧ sparseWf Context.reset s.params.nc s.ctxs ∧
    sparseWf Port.idle 17 s.ports ∧ sparseWf [] 17 s.inboxes

/-- No reserved Sample bit is set in a slot or in LAST, and LAST is no marker (30_encoding.md R136; 40_stream.md R216). -/
def State.samplesLegal (s : State) : Prop :=
  (∀ n, sampleReservedClear (s.slot n) = true) ∧ sampleReservedClear s.last = true ∧ sampleSilence s.last = false

/-- Every value of CODE, now and in its history, is NONE or one of the four causes (10_state.md R45). -/
def State.codesLegal (s : State) : Prop := s.code.cur ≤ 4#8 ∧ ∀ m ∈ s.code.past, m.1 ≤ 4#8

/-- The key is down exactly inside an element, and an idle FSM has nothing remembered (44_iambic.md R311; 10_state.md R62). -/
def Iambic.inStep (f : Iambic) : Prop :=
  f.key = f.st.sending ∧ (f.st = .idle → f.ditMem = false ∧ f.dahMem = false ∧ f.sqz = false)

/-- Where the producer is in a slot write (10_state.md R37; 20_memory.md R94), or in STRM_INIT between its two micro-steps
(`zeroed`, log entry 6). -/
inductive WritePhase where
  | between | begun | written | zeroed
deriving DecidableEq, Repr

/-- The phase after an entry; `none` where the entry does not fit the phase. -/
def WritePhase.after (ph : WritePhase) : Op → Option WritePhase
  | .strmZero => if ph = .between then some .zeroed else none
  | .strmPublish => if ph = .zeroed then some .between else none
  | .slotWriteBegin => if ph = .between then some .begun else none
  | .slotWriteEnd _ => if ph = .begun then some .written else none
  | .publish => if ph = .written then some .between else none
  | .clearIdle => some ph
  | .setLast _ => some ph
  | .storeCode _ => some ph
  | .storeData _ => some ph
  | .countFault => some ph
  | .storeActive _ => some ph
  | .result _ _ => some ph
  | .wpos => some ph
  | .lag _ => some ph
  | .overrun _ => some ph
  | .readLoad _ _ => some ph
  | .slotCopy _ _ => some ph
  | .hrtInit _ _ => some ph
  | .hrtFlag _ => some ph
  | .hrtLag _ => some ph
  | .hrtOverrun _ => some ph
  | .hrtResync _ => some ph
  | .beInit _ _ _ => some ph
  | .beLag _ => some ph
  | .beSkip _ => some ph
  | .beAgain _ => some ph
  | .beJump _ => some ph
  | .fltActive => some ph
  | .fltCode => some ph
  | .fltData => some ph
  | .fltCount => some ph
  | .latch => some ph
  | .faultCheck _ => some ph

/-- What is left of the producer's command goes on from this phase, and ends between two slot writes. -/
def continuesFrom (ph : WritePhase) : List Op → Prop
  | [] => ph = .between
  | op :: rest =>
    match ph.after op with
    | some next => continuesFrom next rest
    | none => False

/-- An entry that writes PW, a slot, W, LAST or IDLE_CNT. -/
def Op.writesStream : Op → Bool
  | .strmZero => true
  | .strmPublish => true
  | .slotWriteBegin => true
  | .slotWriteEnd _ => true
  | .publish => true
  | .clearIdle => true
  | .setLast _ => true
  | .storeCode _ => false
  | .storeData _ => false
  | .countFault => false
  | .storeActive _ => false
  | .result _ _ => false
  | .wpos => false
  | .lag _ => false
  | .overrun _ => false
  | .readLoad _ _ => false
  | .slotCopy _ _ => false
  | .hrtInit _ _ => false
  | .hrtFlag _ => false
  | .hrtLag _ => false
  | .hrtOverrun _ => false
  | .hrtResync _ => false
  | .beInit _ _ _ => false
  | .beLag _ => false
  | .beSkip _ => false
  | .beAgain _ => false
  | .beJump _ => false
  | .fltActive => false
  | .fltCode => false
  | .fltData => false
  | .fltCount => false
  | .latch => false
  | .faultCheck _ => false

/-- Rule R37: between slot writes `PW = W`; from the beginning of a write until its publication `PW = W + 1`; and inside STRM_INIT,
once it has zeroed PW and until it stores W, `PW = 0` (phase `zeroed`, log entry 6). No other agent's command writes the stream (R35, R36), and the producer has seen its own latest W. -/
def State.writerInStep (s : State) : Prop :=
  (∃ ph, continuesFrom ph (s.opsLeft .producer) ∧
      s.pw = match ph with
        | .between => s.w.cur
        | .begun => s.w.cur + 1#32
        | .written => s.w.cur + 1#32
        | .zeroed => 0#32) ∧
    s.seesW .producer ∧ ∀ a, a ≠ .producer → ∀ op ∈ s.opsLeft a, op.writesStream = false

/-- A view names only positions that the modification orders have (20_memory.md R103, R105). -/
def View.within (v : View) (s : State) : Prop :=
  v.w ≤ s.w.top ∧ v.active ≤ s.active.top ∧ v.code ≤ s.code.top ∧ v.data ≤ s.data.top ∧ v.count ≤ s.count.top

/-- What relaxed loads have returned names only positions that the modification orders have (20_memory.md R105). -/
def Loaded.within (l : Loaded) (s : State) : Prop :=
  l.code ≤ s.code.top ∧ l.data ≤ s.data.top ∧ l.count ≤ s.count.top

/-- No agent has seen or loaded, and no release store carries, a value that has not been stored (20_memory.md R89). -/
def State.viewsWithin (s : State) : Prop :=
  (∀ a, (s.view a).within s ∧ (s.loaded a).within s) ∧
    (s.w.rel.within s ∧ ∀ m ∈ s.w.past, m.2.within s) ∧ (s.active.rel.within s ∧ ∀ m ∈ s.active.past, m.2.within s)

end Sys2Proof.Machine
end

