-- ==== Sys2Proof/Certificates/Slice0/Obligations.lean ====
section
/-!
DEFINITION. The statements for the provers, from the numbered rules of the spec.
-/

open Sys2Proof Sys2Proof.Machine

/-! ### Encoding (30_encoding.md) -/

/-- Decoding what the encoder writes gives the command back, every operand word with it (30_encoding.md R126, R150, R155).
That an unused operand word is no part of the command is the model's reading (log entry 12). -/
def Obligations.DecodeOfEncodeIsTheCommand : Prop :=
  ∀ i : Instr, decode (encode i) = .ok i

/-- Encoding what the decoder reads gives back the header, and every operand word the command uses: no bit is dropped
(30_encoding.md R121, R122, R145).
That an unused operand word is dropped is the model's reading (log entry 12). -/
def Obligations.EncodeOfDecodeKeepsEveryUsedBit : Prop :=
  ∀ (c : Command) (i : Instr), decode c = .ok i →
    (encode i).h = c.h ∧ (usesWordA i = true → (encode i).a = c.a) ∧ (usesWordB i = true → (encode i).b = c.b)

/-- The decoder accepts exactly the headers that 30_encoding.md R151 and 60_exceptions.md R404 leave legal. -/
def Obligations.DecoderAcceptsExactlyTheLegalHeaders : Prop :=
  ∀ c : Command, (∃ i, decode c = .ok i) ↔ legalHeader c.h

/-- Headers written out from the table of 30_encoding.md R150 decode to their commands. -/
def Obligations.WrittenHeadersDecode : Prop :=
  decodeTableWord 32 0x00000010 = some .strmInit ∧ decodeTableWord 32 0x00000321 = some (.hrtTick 3) ∧
    decodeTableWord 32 0x00000F2A = some (.beDropped 15) ∧ decodeTableWord 32 0x00000031 = some .fltClear ∧
    decodeTableWord 32 0x00001011 = none ∧ decodeTableWord 32 0x00000018 = none

/-! ### Command errors (60_exceptions.md) -/

/-- A command that fails a check is answered with the status of the first one that fails, with `KIND = 0` and `V = 0`, and
changes nothing; the checks fail in the order of R403 (60_exceptions.md R401, R403, R405 to R410).
`State.fails` is about a command whose header decodes; a header that does not decode is in StepAnswersAnIllegalHeader. -/
def Obligations.FailedCheckIsAnsweredAndChangesNothing : Prop :=
  ∀ (i : Instr) (s : State) (st : Status), s.fails i st →
    Ends s (exec i s) (errorResponse st) fun t => SameButPort s t ∧ t.view s.issuer = s.view s.issuer

/-- A command that passes every check runs to its end and is answered OK, if its agent is not switched out
(60_exceptions.md R400).
The slices, the queues and the schedule are the model's (log entries 2, 16, 21). -/
def Obligations.AdmittedCommandRunsToItsEnd : Prop :=
  ∀ (i : Instr) (s : State), s.unlimited → s.admitsCommand i →
    ∃ k v, Ends s (exec i s) (okResponse k v) fun t =>
      t.params = s.params ∧ t.inboxes = s.inboxes ∧ t.turns = s.turns

/-! ### Steps -/

/-- When the agent served has a command in progress, the step goes on with it; when it has none and its next command decodes to `i`,
the step is `exec i` in the state that serves it, with the command taken from the queue; when it has neither, the slice passes.
The schedule, the queues and the commands in progress are the model's (log entries 2, 15, 21). -/
def Obligations.StepIssuesTheDecodedCommand : Prop :=
  ∀ (s : State) (slice : Slice) (rest : List Turn), s.turns = .serve slice :: rest → s.hasPort slice.agent = true →
    (∀ th, (s.port slice.agent).thread = some th → step s = .next ((s.serving slice rest).resume slice.agent th)) ∧
    ((s.port slice.agent).thread = none →
      (∀ (c : Command) (cs : List Command) (i : Instr), s.inbox slice.agent = c :: cs → decode c = .ok i →
        step s = exec i ((s.serving slice rest).setInbox slice.agent cs)) ∧
      (s.inbox slice.agent = [] → step s = .next (s.serving slice rest)))

/-- A header that does not decode is answered with ERR_ILLEGAL and changes nothing (60_exceptions.md R401, R404).
The schedule and the queues are the model's (log entries 2, 21). -/
def Obligations.StepAnswersAnIllegalHeader : Prop :=
  ∀ (s : State) (slice : Slice) (rest : List Turn) (c : Command) (cs : List Command),
    s.turns = .serve slice :: rest → s.hasPort slice.agent = true → (s.port slice.agent).thread = none →
    s.inbox slice.agent = c :: cs → ¬ legalHeader c.h →
    ∃ t, step s = .next t ∧ (t.port slice.agent).response = some (errorResponse .errIllegal) ∧ SameBlock s t ∧
      t.turns = rest ∧ t.inbox slice.agent = cs ∧ ∀ b, b ≠ slice.agent → t.port b = s.port b

/-- Being switched out and served again, with no other agent moving in between and no older value asked for (no slice has ages, so
every load returns the latest value), is the same as not being switched out: the micro-steps of a command run in the order of its
pseudocode (20_memory.md R100).
The slices are the model's (log entries 2, 4, 15). -/
def Obligations.BeingSwitchedOutIsInvisible : Prop :=
  ∀ (i : Instr) (s t u : State) (n : Nat) (slice : Slice),
    (s.port s.issuer).thread = none → slice = { agent := s.issuer, budget := none, ages := [] } →
    exec i { s with turn := slice } = .next t →
    exec i { s with turn := { slice with budget := some n } } = .next u →
    (match (u.port s.issuer).thread with
      | some th => ({ u with turn := slice } : State).resume s.issuer th
      | none => { u with turn := slice }) = t

/-- Reset sets every element of the block to the value of 10_state.md R30, from every state with no command in progress; the
state `State.reset` is such a state, with nothing queued and nothing scheduled (70_reset_and_hazards.md R450).
The parameters, the queues, the schedule and the count of draws of the last clause are the model's (log entries 1, 18). -/
def Obligations.ResetLeavesTheSpecifiedState : Prop :=
  ∀ (s : State) (rest : List Turn), s.turns = .reset :: rest → s.anyInProgress = false →
    ∃ t, step s = .next t ∧ t.params = s.params ∧ t.w.cur = 0 ∧ (∀ n, t.slot n = 0) ∧ t.last = 0 ∧ t.idleCnt = 0 ∧
      t.pw = 0 ∧ t.active.cur = 0 ∧ t.code.cur = 0 ∧ t.data.cur = 0 ∧ t.count.cur = 0 ∧
      (∀ k, t.ctx k = { mode := .none, cur := 0, maxLag := 0, thr := 0, margin := 0, dropped := 0 }) ∧
      t.fsm = { st := .idle, deadline := 0, key := false, lastEl := .none, ditMem := false, dahMem := false, sqz := false,
                cfg := { wpm := 0, modeB := false, ditMemEn := false, dahMemEn := false } } ∧
      t.outLatch = false ∧ t.txKey = false ∧ t.audioMute = false ∧ t.faultPin = false ∧
      (t.inboxes = [] → rest = [] → t.draws = 0 → t.params = Config.resetParams → t = { State.reset with turn := t.turn })

/-! ### Keying Stream (40_stream.md) -/

/-- STRM_INIT zeroes every slot, W, PW, LAST and IDLE_CNT, and no context (40_stream.md R200).
That a command it overlaps goes on, and is marked for its copies to draw, is the model's choice (log entry 6). -/
def Obligations.StrmInitZeroesTheStream : Prop :=
  ∀ s : State, s.unlimited → s.issuer = .producer →
    Ends s (exec .strmInit s) (okResponse .ok 0) fun t =>
      (∀ n, t.slot n = 0) ∧ t.w.cur = 0 ∧ t.pw = 0 ∧ t.last = 0 ∧ t.idleCnt = 0 ∧ SameFault s t ∧ t.ctxs = s.ctxs ∧
        t.fsm = s.fsm ∧ t.outLatch = s.outLatch ∧ t.params = s.params ∧ t.inboxes = s.inboxes ∧ t.turns = s.turns ∧
        ∀ b, b ≠ s.issuer → (t.port b).response = (s.port b).response ∧ (t.port b).view = (s.port b).view ∧
          (t.port b).thread = (s.port b).thread.map fun th => { th with overlapped := true }

/-- A PUSH whose paddles, key-out and audio level are those of LAST is counted as one idle tick, saturating, and writes nothing
(40_stream.md R201, R202, R207). -/
def Obligations.PushOfAnUnchangedSampleIsCounted : Prop :=
  ∀ (a : Word64) (s : State), s.unlimited → s.issuer = .producer → (Instr.push a).wellFormed = true →
    samplePaddles (operandSample a) = samplePaddles s.last → sampleKey (operandSample a) = sampleKey s.last →
    sampleAudio (operandSample a) = sampleAudio s.last →
    Ends s (exec (.push a) s) (okResponse .ok 1) fun t =>
      t.idleCnt.toNat = min (s.idleCnt.toNat + 1) 65535 ∧ WroteSlots [] s t ∧ t.w = s.w ∧ t.slots = s.slots ∧
        t.last = s.last ∧ SameButStream s t

/-- A PUSH of a changed sample writes the pending marker, if ticks are pending, and then the annotated sample, and remembers
it (40_stream.md R203, R205, R206, R207, R217). -/
def Obligations.PushOfAChangedSampleIsWritten : Prop :=
  ∀ (a : Word64) (s : State), s.unlimited → s.issuer = .producer → (Instr.push a).wellFormed = true →
    ¬ (samplePaddles (operandSample a) = samplePaddles s.last ∧ sampleKey (operandSample a) = sampleKey s.last ∧
      sampleAudio (operandSample a) = sampleAudio s.last) →
    Ends s (exec (.push a) s) (okResponse .ok 1) fun t =>
      WroteSlots (pendingMarker s ++ [annotate (operandSample a) s.last]) s t ∧ t.idleCnt = 0 ∧
        t.last = annotate (operandSample a) s.last ∧ SameButStream s t

/-- PUSH_RAW writes its sample verbatim into one slot, and leaves LAST and IDLE_CNT alone (40_stream.md R208). -/
def Obligations.PushRawWritesVerbatim : Prop :=
  ∀ (a : Word64) (s : State), s.unlimited → s.issuer = .producer → (Instr.pushRaw a).wellFormed = true →
    Ends s (exec (.pushRaw a) s) (okResponse .ok 1) fun t =>
      WroteSlots [operandSample a] s t ∧ t.last = s.last ∧ t.idleCnt = s.idleCnt ∧ SameButStream s t

/-- FLUSH writes the pending idle count as one marker, if there is any, and keeps LAST (40_stream.md R203, R209). -/
def Obligations.FlushWritesThePendingMarker : Prop :=
  ∀ s : State, s.unlimited → s.issuer = .producer →
    Ends s (exec .flush s) (okResponse .ok 0) fun t =>
      WroteSlots (pendingMarker s) s t ∧ t.idleCnt = 0 ∧ t.last = s.last ∧ SameButStream s t

/-- READ of an index in the window `1 <= W - i <= CAP` of the value its load of W returns gives its slot; outside the window it answers
NO_DATA (40_stream.md R210; 20_memory.md R87). The producer is in no slot write that reaches the slot. -/
def Obligations.ReadAnswersTheSlotInsideTheWindow : Prop :=
  ∀ (a : Word64) (s : State) (w : Word32), s.unlimited → (Instr.read a).wellFormed = true → s.loadsW s.issuer [w] →
    (1 ≤ (w - operandWord a).toNat → (w - operandWord a).toNat ≤ 2 ^ s.params.capLog2.val →
      s.copyDraws false (operandWord a) = false →
      Ends s (exec (.read a) s) (okResponse .ok ((s.slot (s.slotOf (operandWord a))).zeroExtend 64)) (SameButPort s)) ∧
    ((w - operandWord a).toNat = 0 ∨ 2 ^ s.params.capLog2.val < (w - operandWord a).toNat →
      Ends s (exec (.read a) s) (okResponse .noData 0) (SameButPort s))

/-- READ of an index of the window whose slot the producer has begun to overwrite (`PW - i > CAP`), or that overlaps a STRM_INIT,
answers a draw, whatever value the draw has (20_memory.md R95, R112).
The form of the draw, and that STRM_INIT may overlap a command, are the model's choice (log entries 5, 6). -/
def Obligations.ReadThatRacesAnOverwriteDraws : Prop :=
  ∀ (a : Word64) (s : State) (w : Word32), s.unlimited → (Instr.read a).wellFormed = true → s.loadsW s.issuer [w] →
    1 ≤ (w - operandWord a).toNat → (w - operandWord a).toNat ≤ 2 ^ s.params.capLog2.val →
    s.strmInitRunning = true ∨ 2 ^ s.params.capLog2.val < (s.pw - operandWord a).toNat →
    Ends s (exec (.read a) s) (okResponse .ok ((Config.slotDraw s.draws).zeroExtend 64)) fun t =>
      SameBlock s t ∧ SameOutside s t ∧ t.draws = s.draws + 1

/-- WPOS, LAG and OVERRUN answer from the value of the write index that their load returns (40_stream.md R211, R212, R213). -/
def Obligations.PositionQueriesAnswerFromW : Prop :=
  ∀ (a : Word64) (s : State) (w : Word32), s.unlimited → s.loadsW s.issuer [w] →
    Ends s (exec .wpos s) (okResponse .ok (w.zeroExtend 64)) (SameButPort s) ∧
    ((Instr.lag a).wellFormed = true →
      Ends s (exec (.lag a) s) (okResponse .ok ((w - operandWord a).zeroExtend 64)) (SameButPort s)) ∧
    ((Instr.overrun a).wellFormed = true →
      Ends s (exec (.overrun a) s)
        (okResponse .ok (if 2 ^ s.params.capLog2.val < (w - operandWord a).toNat then 1 else 0)) (SameButPort s))

/-- READ, WPOS, LAG, OVERRUN and the fault observers change no state of the block, wherever their agent is switched out and
whatever values their loads return; nor does a step that goes on with one (20_memory.md R91).
The commands in progress are the model's form of an interleaving (log entries 2, 15). -/
def Obligations.ObserversChangeNothing : Prop :=
  ∀ (i : Instr) (a : Word64) (s t : State),
    i ∈ [.read a, .wpos, .lag a, .overrun a, .fltActive, .fltCode, .fltData, .fltCount] →
    (exec i s = .next t → SameBlock s t ∧ SameOutside s t) ∧
    ∀ g, s.nextRuns g i → step s = .next t → SameBlock s t

/-- A load of W by WPOS returns a value of W's modification order that is not older than what the issuer has seen, every such
value can be returned, and no later load of the same agent returns an older one (20_memory.md R103).
The ages and the views are the model's form of the rule (log entries 4, 22). That the same older value may be returned again (V-M2 of
95_test_vectors.md), or a newer one with no store between (20_memory.md R91), is the model's reading (log entries 27, 28). -/
def Obligations.WposReturnsExactlyTheAllowedValues : Prop :=
  ∀ s : State, s.unlimited →
    AnswersAnyOf s .wpos (s.w.top - (s.view s.issuer).w) (fun age => (s.w.atAge age).1.zeroExtend 64)
      fun age t => s.w.top - age ≤ (t.view s.issuer).w

/-- Compression round trip: `n + 1` pushes of one changed sample and then one of another write the first sample once, then, if
`n > 0`, one marker of `min(n, 65535)` ticks, then the second sample, each annotated against the sample before it
(40_stream.md R215). -/
def Obligations.CompressionRoundTrip : Prop :=
  ∀ (x y : Word64) (n : Nat) (s : State), s.unlimited → s.issuer = .producer →
    (Instr.push x).wellFormed = true → (Instr.push y).wellFormed = true → s.idleCnt = 0 →
    sameSample (operandSample x) s.last = false → sameSample (operandSample y) (operandSample x) = false →
    ∃ t u, issueMany (n + 1) (.push x) s = some t ∧ exec (.push y) t = .next u ∧
      WroteSlots
        (annotate (operandSample x) s.last ::
          ((if n = 0 then [] else [marker (BitVec.ofNat 16 (min n 65535))]) ++
            [annotate (operandSample y) (annotate (operandSample x) s.last)])) s u

/-- The sample PUSH writes has the computed edge flags, no silence flag, and every other bit of its operand; a marker carries
no paddle, no key, no audio level and its count as payload (40_stream.md R204, R205, R216; 30_encoding.md R137). -/
def Obligations.AnnotatedSamplesAndMarkersAreAsSpecified : Prop :=
  (∀ s l : Sample,
    ((annotate s l).getLsbD 24 = true ↔ samplePaddles s ≠ samplePaddles l) ∧
      ((annotate s l).getLsbD 25 = true ↔ sampleKey s ≠ sampleKey l) ∧ sampleSilence (annotate s l) = false ∧
      ∀ n, n < 48 → n ≠ 24 → n ≠ 25 → n ≠ 26 → (annotate s l).getLsbD n = s.getLsbD n) ∧
    ∀ n : BitVec 16, samplePaddles (marker n) = 0 ∧ sampleKey (marker n) = false ∧ sampleAudio (marker n) = 0 ∧
      sampleFlags (marker n) = 4 ∧ samplePayload (marker n) = n ∧ sampleReservedClear (marker n) = true

/-! ### Hard-RT Consumer (41_hrt_consumer.md) -/

/-- HRT_INIT makes the issuer's own context a hard-RT consumer that starts at the write position its load returns
(41_hrt_consumer.md R240). -/
def Obligations.HrtInitStartsAtTheWritePosition : Prop :=
  ∀ (k : CtxIdx) (a : Word64) (s : State) (w : Word32), s.unlimited → s.admitsCommand (.hrtInit k a) →
    s.loadsW s.issuer [w] →
    Ends s (exec (.hrtInit k a) s) (okResponse .ok 0) fun t =>
      t.ctx k = { s.ctx k with mode := .hrt, maxLag := operandWord a, cur := w } ∧ SameButContext k s t

/-- HRT_RESYNC jumps the cursor to the write position its load returns and nothing else, fault or no fault (41_hrt_consumer.md R242). -/
def Obligations.HrtResyncJumpsToTheWritePosition : Prop :=
  ∀ (k : CtxIdx) (s : State) (w : Word32), s.unlimited → s.admitsCommand (.hrtResync k) → s.loadsW s.issuer [w] →
    Ends s (exec (.hrtResync k) s) (okResponse .ok 0) fun t =>
      t.ctx k = { s.ctx k with cur := w } ∧ SameButContext k s t

/-- An HRT_TICK whose load of ACTIVE returns 1 answers FAULT and changes no state, in particular not COUNT
(41_hrt_consumer.md R243). -/
def Obligations.HrtTickUnderAFaultChangesNothing : Prop :=
  ∀ (k : CtxIdx) (s : State), s.unlimited → s.admitsCommand (.hrtTick k) → (s.acqLoadActive s.issuer).1 = true →
    Ends s (exec (.hrtTick k) s) (okResponse .fault 0) (SameButPort s)

/-- An HRT_TICK whose load of ACTIVE returns 0 raises LATENCY_EXCEEDED when its first load of W gives a lag above MAXLAG;
CONSUMER_OVERRUN when that lag is not 0 and its second load gives one above CAP; and CONSUMER_OVERRUN when the read that follows
fails, its own load `w3` giving a lag of 0 or above CAP. Each saves the lag as measured, counts once, sets ACTIVE, and leaves the
cursor (41_hrt_consumer.md R241 (b), (d), (e); 60_exceptions.md R412, R413, R418). -/
def Obligations.HrtTickRaisesLatencyOrOverrun : Prop :=
  ∀ (k : CtxIdx) (s : State) (w w2 w3 cur : Word32), s.unlimited → s.admitsCommand (.hrtTick k) → cur = (s.ctx k).cur →
    (s.acqLoadActive s.issuer).1 = false → (s.acqLoadActive s.issuer).2.loadsW s.issuer [w, w2, w3] →
    ((s.ctx k).maxLag < w - cur →
      Ends s (exec (.hrtTick k) s) (okResponse .fault 0) (RecordedFault 2 (w - cur) s)) ∧
    (w - cur ≤ (s.ctx k).maxLag → w ≠ cur → 2 ^ s.params.capLog2.val < (w2 - cur).toNat →
      Ends s (exec (.hrtTick k) s) (okResponse .fault 0) (RecordedFault 1 (w2 - cur) s)) ∧
    (w - cur ≤ (s.ctx k).maxLag → w ≠ cur → (w2 - cur).toNat ≤ 2 ^ s.params.capLog2.val →
      w3 = cur ∨ 2 ^ s.params.capLog2.val < (w3 - cur).toNat →
      Ends s (exec (.hrtTick k) s) (okResponse .fault 0) (RecordedFault 1 (w3 - cur) s))

/-- An HRT_TICK whose load of ACTIVE returns 0 answers NO_DATA when its first load of W gives a lag of 0; when that lag is within
MAXLAG, its second load gives one within CAP and the load of its read finds the cursor in the window, it reads the sample at the
cursor and moves the cursor on by one (41_hrt_consumer.md R241 (c), (f)). -/
def Obligations.HrtTickReadsTheNextSample : Prop :=
  ∀ (k : CtxIdx) (s : State) (w w2 w3 cur : Word32), s.unlimited → s.admitsCommand (.hrtTick k) → cur = (s.ctx k).cur →
    (s.acqLoadActive s.issuer).1 = false → (s.acqLoadActive s.issuer).2.loadsW s.issuer [w, w2, w3] →
    (w = cur → Ends s (exec (.hrtTick k) s) (okResponse .noData 0) (SameButPort s)) ∧
    (w - cur ≤ (s.ctx k).maxLag → w ≠ cur → (w2 - cur).toNat ≤ 2 ^ s.params.capLog2.val →
      1 ≤ (w3 - cur).toNat → (w3 - cur).toNat ≤ 2 ^ s.params.capLog2.val → s.copyDraws false cur = false →
      Ends s (exec (.hrtTick k) s) (okResponse .ok ((s.slot (s.slotOf cur)).zeroExtend 64)) fun t =>
        t.ctx k = { s.ctx k with cur := cur + 1 } ∧ SameButContext k s t)

/-- A hard-RT tick never skips: wherever its agent is switched out and whatever its loads return, the cursor stays or moves on
by one, and only when the tick answers OK; and so in every step that goes on with one (41_hrt_consumer.md R245).
The commands in progress are the model's form of an interleaving (log entries 2, 15). -/
def Obligations.HrtTickNeverSkips : Prop :=
  ∀ (k : CtxIdx) (s t : State) (g : Agent),
    exec (.hrtTick k) s = .next t ∧ g = s.issuer ∨ step s = .next t ∧ s.nextRuns g (.hrtTick k) →
    t.ctx k = s.ctx k ∨
      t.ctx k = { s.ctx k with cur := (s.ctx k).cur + 1 } ∧
        (t.port g).thread = none ∧ ∃ v, (t.port g).response = some (okResponse .ok v)

/-! ### Best-Effort Consumer (42_be_consumer.md) -/

/-- BE_INIT makes the issuer's own context a best-effort consumer that starts at the write position its load returns
(42_be_consumer.md R260). -/
def Obligations.BeInitStartsAtTheWritePosition : Prop :=
  ∀ (k : CtxIdx) (a b : Word64) (s : State) (w : Word32), s.unlimited → s.admitsCommand (.beInit k a b) →
    s.loadsW s.issuer [w] →
    Ends s (exec (.beInit k a b) s) (okResponse .ok 0) fun t =>
      t.ctx k = { s.ctx k with mode := .be, thr := operandWord a, margin := operandWord b, dropped := 0, cur := w } ∧
        SameButContext k s t

/-- A BE_TICK answers NO_DATA when its first load of W gives a lag of 0. When it need not skip, it reads the sample at the cursor and
moves the cursor on by one if the load of its read finds the cursor in the window, and otherwise answers NO_DATA and changes nothing
(42_be_consumer.md R261 (a), (c), (e)). -/
def Obligations.BeTickReadsTheNextSample : Prop :=
  ∀ (k : CtxIdx) (s : State) (w w2 cur : Word32), s.unlimited → s.admitsCommand (.beTick k) → cur = (s.ctx k).cur →
    s.loadsW s.issuer [w, w2] →
    (w = cur → Ends s (exec (.beTick k) s) (okResponse .noData 0) (SameButPort s)) ∧
    (w ≠ cur → (w - cur).toNat ≤ 2 ^ s.params.capLog2.val → (s.ctx k).thr = 0 ∨ w - cur ≤ (s.ctx k).thr →
      (1 ≤ (w2 - cur).toNat → (w2 - cur).toNat ≤ 2 ^ s.params.capLog2.val → s.copyDraws false cur = false →
        Ends s (exec (.beTick k) s) (okResponse .ok ((s.slot (s.slotOf cur)).zeroExtend 64)) fun t =>
          t.ctx k = { s.ctx k with cur := cur + 1 } ∧ SameButContext k s t) ∧
      (w2 = cur ∨ 2 ^ s.params.capLog2.val < (w2 - cur).toNat →
        Ends s (exec (.beTick k) s) (okResponse .noData 0) (SameButPort s)))

/-- A BE_TICK that must skip (an overrun, or a lag above a threshold that is not 0) and whose second load of W gives a lag above MARGIN
moves its cursor to `W - MARGIN` and adds the skipped samples to DROPPED, saturating. It then measures the lag again and goes on as
`BeTickAfterSkip` says (42_be_consumer.md R261 (b), (c), (d)).
That the jump's load of W may be the fifth, the load of the read counted, follows R261 (log entry 24). -/
def Obligations.BeTickSkipsForward : Prop :=
  ∀ (k : CtxIdx) (s : State) (w w2 w3 w4 w5 cur : Word32), s.unlimited → s.admitsCommand (.beTick k) →
    cur = (s.ctx k).cur → s.loadsW s.issuer [w, w2, w3, w4, w5] →
    2 ^ s.params.capLog2.val < (w - cur).toNat ∨ ((s.ctx k).thr ≠ 0 ∧ (s.ctx k).thr < w - cur) →
    (s.ctx k).margin < w2 - cur →
    BeTickAfterSkip k s
      { s.ctx k with
        cur := w2 - (s.ctx k).margin
        dropped := BitVec.ofNat 32
          (min ((s.ctx k).dropped.toNat + ((w2 - cur).toNat - (s.ctx k).margin.toNat)) (2 ^ 32 - 1)) }
      w3 w4 w5

/-- A BE_TICK that must skip but whose second load of W gives a lag within MARGIN keeps its cursor and DROPPED, and goes on as
`BeTickAfterSkip` says (42_be_consumer.md R261 (b), (c), (d)).
That the jump's load of W may be the fifth, the load of the read counted, follows R261 (log entry 24). -/
def Obligations.BeTickNeverSkipsBackward : Prop :=
  ∀ (k : CtxIdx) (s : State) (w w2 w3 w4 w5 cur : Word32), s.unlimited → s.admitsCommand (.beTick k) →
    cur = (s.ctx k).cur → s.loadsW s.issuer [w, w2, w3, w4, w5] → w ≠ cur →
    2 ^ s.params.capLog2.val < (w - cur).toNat ∨ ((s.ctx k).thr ≠ 0 ∧ (s.ctx k).thr < w - cur) →
    w2 - cur ≤ (s.ctx k).margin → BeTickAfterSkip k s (s.ctx k) w3 w4 w5

/-- BE_DROPPED answers the drop counter (42_be_consumer.md R262). -/
def Obligations.BeDroppedAnswersTheCounter : Prop :=
  ∀ (k : CtxIdx) (s : State), s.unlimited → s.admitsCommand (.beDropped k) →
    Ends s (exec (.beDropped k) s) (okResponse .ok ((s.ctx k).dropped.zeroExtend 64)) (SameButPort s)

/-- No best-effort command writes the fault record, wherever its agent is switched out and whatever its loads return, and none
answers FAULT; nor does a step that goes on with one (42_be_consumer.md R263).
The commands in progress are the model's form of an interleaving (log entries 2, 15). -/
def Obligations.BestEffortNeverFaults : Prop :=
  ∀ (i : Instr) (k : CtxIdx) (a b : Word64) (s t : State), i ∈ [.beInit k a b, .beTick k, .beDropped k] →
    (exec i s = .next t →
      SameFault s t ∧ (s.unlimited → ∃ r, (t.port s.issuer).response = some r ∧ r.kind ≠ .fault)) ∧
    ∀ g, s.nextRuns g i → step s = .next t →
      SameFault s t ∧
        ((t.port g).response = (s.port g).response ∨ ∃ r, (t.port g).response = some r ∧ r.kind ≠ .fault)

/-- No command but a BE_INIT of the context lowers its drop counter, nor does a step that is no reset and neither issues nor goes on
with one (42_be_consumer.md R264). -/
def Obligations.DroppedNeverDecreases : Prop :=
  ∀ (s t : State) (k : CtxIdx),
    (∀ i : Instr, (∀ a b, i ≠ .beInit k a b) → exec i s = .next t → (s.ctx k).dropped ≤ (t.ctx k).dropped) ∧
    (s.threadsOwned → ¬ s.resetsNext → (∀ g a b, ¬ s.nextRuns g (.beInit k a b)) → step s = .next t →
      (s.ctx k).dropped ≤ (t.ctx k).dropped)

/-! ### Fault State (43_fault.md) -/

/-- FLT_SET saves code and data, counts the occurrence and sets ACTIVE, over a fault already active too; the pins are then safe: TX_KEY
0, AUDIO_MUTE and FAULT 1 (43_fault.md R281, R282; 45_producer.md R342). -/
def Obligations.FltSetRecordsTheFault : Prop :=
  ∀ (a b : Word64) (s : State), s.unlimited → s.admitsCommand (.fltSet a b) →
    Ends s (exec (.fltSet a b) s) (okResponse .ok 0) (RecordedFault (operandCode a) (operandWord b) s)

/-- FLT_CLEAR clears ACTIVE, CODE and DATA and keeps COUNT; the pins then show no fault and TX_KEY is the latch (43_fault.md R284, R285;
45_producer.md R342). -/
def Obligations.FltClearKeepsTheCount : Prop :=
  ∀ s : State, s.unlimited → s.issuer = .operator →
    Ends s (exec .fltClear s) (okResponse .ok 0) fun t =>
      t.active.cur = 0 ∧ t.code.cur = 0 ∧ t.data.cur = 0 ∧ t.count = s.count ∧ t.txKey = s.outLatch ∧
        t.audioMute = false ∧ t.faultPin = false ∧ SameButFault s t

/-- The four observers answer the fault record: each one value of its field that the issuer may still load, any that its load asks for,
and no later load of the same agent returns an older one (43_fault.md R286 to R289; 20_memory.md R105, R106).
The ages, the views and what an agent has loaded are the model's form of the rules (log entries 4, 22), and so is the interleaving order
of the stores of CODE, DATA and COUNT (log entry 14). That FLT_CODE may return an older code also while ACTIVE is 0 and no FaultSet is
unfinished, which the corner case of R287 does not name, is the model's reading (log entry 25), and so is that an observer repeated may
return a newer value with no store between, or the same older one again (log entries 27, 28). -/
def Obligations.FaultObserversAnswerTheRecord : Prop :=
  ∀ s : State, s.unlimited →
    AnswersAnyOf s .fltActive (s.active.top - (s.view s.issuer).active) (fun age => (s.active.atAge age).1.zeroExtend 64)
      (fun age t => s.active.top - age ≤ (t.view s.issuer).active) ∧
    AnswersAnyOf s .fltCode (s.code.top - s.seenCode s.issuer) (fun age => (s.code.atAge age).1.zeroExtend 64)
      (fun age t => s.code.top - age ≤ t.seenCode s.issuer) ∧
    AnswersAnyOf s .fltData (s.data.top - s.seenData s.issuer) (fun age => (s.data.atAge age).1.zeroExtend 64)
      (fun age t => s.data.top - age ≤ t.seenData s.issuer) ∧
    AnswersAnyOf s .fltCount (s.count.top - s.seenCount s.issuer) (fun age => (s.count.atAge age).1.zeroExtend 64)
      (fun age t => s.count.top - age ≤ t.seenCount s.issuer)

/-- A fault is sticky: no command takes ACTIVE from 1 to 0 but an operator's FLT_CLEAR, wherever its agent is switched out; nor does a
step that is no reset and neither issues nor goes on with an FLT_CLEAR of the operator that has still to clear ACTIVE
(43_fault.md R290). -/
def Obligations.FaultIsSticky : Prop :=
  ∀ s t : State, s.active.cur = 1 →
    (∀ i : Instr, ¬ (i = .fltClear ∧ s.issuer = .operator) → exec i s = .next t → t.active.cur = 1) ∧
    (s.threadsOwned → ¬ s.resetsNext → ¬ s.clearsNext → step s = .next t → t.active.cur = 1)

/-- Only HRT_TICK, PROD_TICK, FLT_SET and FLT_CLEAR write the fault record: no other command does, and no step that goes on with
another (43_fault.md R292).
The commands in progress are the model's form of an interleaving (log entries 2, 15). -/
def Obligations.FaultRecordHasFourWriters : Prop :=
  ∀ (i : Instr) (s t : State), (∀ k, i ≠ .hrtTick k) → (∀ a b, i ≠ .prodTick a b) → (∀ a b, i ≠ .fltSet a b) →
    i ≠ .fltClear →
    (exec i s = .next t → SameFault s t) ∧ ∀ g, s.nextRuns g i → step s = .next t → SameFault s t

/-- The flag publishes the record: after a FLT_SET, an agent whose FLT_ACTIVE loads the flag it stored then reads that fault's code,
data and count, whatever older values its loads ask for (43_fault.md R281, R283; 20_memory.md R101, R104, R105).
The ages and the views are the model's form of the rules (log entries 4, 14, 22). -/
def Obligations.FaultFlagPublishesTheRecord : Prop :=
  ∀ (a b : Word64) (s t u : State) (first later : Slice), s.unlimited → s.admitsCommand (.fltSet a b) →
    exec (.fltSet a b) s = .next t →
    first.budget = none → first.ages.headD 0 = 0 → exec .fltActive { t with turn := first } = .next u →
    later.agent = first.agent → later.budget = none →
    Ends { u with turn := later } (exec .fltCode { u with turn := later })
        (okResponse .ok ((operandCode a).zeroExtend 64)) (fun _ => True) ∧
      Ends { u with turn := later } (exec .fltData { u with turn := later })
        (okResponse .ok ((operandWord b).zeroExtend 64)) (fun _ => True) ∧
      Ends { u with turn := later } (exec .fltCount { u with turn := later })
        (okResponse .ok ((s.count.cur + 1#32).zeroExtend 64)) (fun _ => True)

/-! ### Iambic FSM (44_iambic.md) -/

/-- `DitDuration` is the floor of 1200000 over the speed (44_iambic.md R300). -/
def Obligations.DitDurationIsTheFloor : Prop :=
  ∀ wpm : BitVec 8, wpm ≠ 0 →
    (ditDuration wpm).toNat * wpm.toNat ≤ 1200000 ∧ 1200000 < ((ditDuration wpm).toNat + 1) * wpm.toNat

/-- IAM_CFG writes the four fields of the configuration and nothing else (44_iambic.md R301; 30_encoding.md R140). -/
def Obligations.IamCfgWritesTheConfiguration : Prop :=
  ∀ (a : Word64) (s : State), s.unlimited → s.admitsCommand (.iamCfg a) →
    Ends s (exec (.iamCfg a) s) (okResponse .ok 0) fun t =>
      t.fsm = { s.fsm with cfg := t.fsm.cfg } ∧ t.fsm.cfg.wpm.toNat = a.toNat % 256 ∧
        (t.fsm.cfg.modeB = true ↔ a.toNat / 256 % 2 = 1) ∧ (t.fsm.cfg.ditMemEn = true ↔ a.toNat / 512 % 2 = 1) ∧
        (t.fsm.cfg.dahMemEn = true ↔ a.toNat / 1024 % 2 = 1) ∧ SameButFsm s t

/-- IAM_TICK runs one tick of the FSM and answers its sample: the paddles of the operand, the key after the tick, and no audio,
flag or payload (44_iambic.md R302, R309). -/
def Obligations.IamTickAnswersTheSample : Prop :=
  ∀ (a b : Word64) (s : State), s.unlimited → s.admitsCommand (.iamTick a b) →
    ∃ x : Sample, samplePaddles x = operandPaddles b ∧ sampleKey x = (s.fsm.tick a (operandPaddles b)).key ∧
      sampleAudio x = 0 ∧ sampleFlags x = 0 ∧ samplePayload x = 0 ∧ sampleReservedClear x = true ∧
      Ends s (exec (.iamTick a b) s) (okResponse .ok (x.zeroExtend 64)) fun t =>
        t.fsm = s.fsm.tick a (operandPaddles b) ∧ SameButFsm s t

/-- Before its deadline an element or a gap goes on: the state, the key, the deadline and the last element stay, an enabled
memory of a pressed paddle is armed, and the squeeze flag is tracked (44_iambic.md R303, R304, R313). -/
def Obligations.TickBeforeTheDeadlineGoesOn : Prop :=
  ∀ (f : Iambic) (now : Word64) (p : Paddles), f.st ≠ .idle → now < f.deadline →
    (f.tick now p).st = f.st ∧ (f.tick now p).key = f.key ∧ (f.tick now p).deadline = f.deadline ∧
      (f.tick now p).lastEl = f.lastEl ∧ (f.tick now p).cfg = f.cfg ∧
      ((f.tick now p).ditMem = true ↔ f.ditMem = true ∨ (p = 1 ∨ p = 3) ∧ f.cfg.ditMemEn = true) ∧
      ((f.tick now p).dahMem = true ↔ f.dahMem = true ∨ (p = 2 ∨ p = 3) ∧ f.cfg.dahMemEn = true) ∧
      ((f.tick now p).sqz = true ↔
        if p = 3 then f.sqz = true ∨ f.st ≠ .gap else f.sqz = true ∧ f.cfg.modeB = true)

/-- At its deadline an element ends: key up, the element remembered, and a gap of one dit from the tick that sees it. The same tick
arms an enabled memory of a pressed paddle and tracks the squeeze (44_iambic.md R302, R303, R304, R305, R312). -/
def Obligations.TickAtTheDeadlineEndsTheElement : Prop :=
  ∀ (f : Iambic) (now : Word64) (p : Paddles), f.st = .sendDit ∨ f.st = .sendDah → f.deadline ≤ now →
    (f.tick now p).st = .gap ∧ (f.tick now p).key = false ∧
      (f.tick now p).lastEl = (if f.st = .sendDit then .dit else .dah) ∧
      (f.tick now p).deadline = now + BitVec.ofNat 64 (1200000 / f.cfg.wpm.toNat) ∧ (f.tick now p).cfg = f.cfg ∧
      ((f.tick now p).ditMem = true ↔ f.ditMem = true ∨ (p = 1 ∨ p = 3) ∧ f.cfg.ditMemEn = true) ∧
      ((f.tick now p).dahMem = true ↔ f.dahMem = true ∨ (p = 2 ∨ p = 3) ∧ f.cfg.dahMemEn = true) ∧
      ((f.tick now p).sqz = true ↔ p = 3 ∨ f.sqz = true ∧ f.cfg.modeB = true)

/-- The IDLE evaluation, in IDLE and on the tick that ends a gap: the dit memory first, then the dah memory, then the Mode-B bonus,
then the paddles (both: alternate), and nothing if none is pressed. An element that starts is keyed until one or three dits from
now. The squeeze flag outlives the tick only in a squeeze, or in Mode B when a memory decided: the bonus and the fall to IDLE clear it,
and Mode A drops it when the paddles are not both pressed (44_iambic.md R304, R306, R307, R308, R315). -/
def Obligations.IdleEvaluationFollowsThePriorities : Prop :=
  ∀ (f : Iambic) (now : Word64) (p : Paddles) (dit dah : Bool) (e : Element),
    f.st = .idle ∨ f.st = .gap ∧ f.deadline ≤ now →
    (dit = true ↔ f.ditMem = true ∨ f.st = .gap ∧ (p = 1 ∨ p = 3) ∧ f.cfg.ditMemEn = true) →
    (dah = true ↔ f.dahMem = true ∨ f.st = .gap ∧ (p = 2 ∨ p = 3) ∧ f.cfg.dahMemEn = true) →
    e = (if dit = true then .dit
      else if dah = true then .dah
      else if f.cfg.modeB = true ∧ f.sqz = true ∧ p ≠ 3 then opposite f.lastEl
      else if p = 3 then opposite f.lastEl
      else if p = 1 then .dit
      else if p = 2 then .dah
      else .none) →
    (f.tick now p).cfg = f.cfg ∧ (f.tick now p).lastEl = f.lastEl ∧ (f.tick now p).ditMem = false ∧
      (f.tick now p).dahMem = (dit && dah) ∧
      ((f.tick now p).sqz = true ↔ f.sqz = true ∧ (p = 3 ∨ f.cfg.modeB = true ∧ (dit = true ∨ dah = true))) ∧
      match e with
      | .dit =>
        (f.tick now p).st = .sendDit ∧ (f.tick now p).key = true ∧
          (f.tick now p).deadline = now + BitVec.ofNat 64 (1200000 / f.cfg.wpm.toNat)
      | .dah =>
        (f.tick now p).st = .sendDah ∧ (f.tick now p).key = true ∧
          (f.tick now p).deadline = now + BitVec.ofNat 64 (3 * (1200000 / f.cfg.wpm.toNat))
      | .none =>
        (f.tick now p).st = .idle ∧ (f.tick now p).key = f.key ∧ (f.tick now p).deadline = f.deadline ∧
          (f.tick now p).sqz = false

/-- In Mode A the squeeze flag is not observable: two FSMs that differ only in it produce the same sample and still differ only
in it after a tick (44_iambic.md R310). -/
def Obligations.ModeASqueezeFlagIsUnobservable : Prop :=
  ∀ (f : Iambic) (now : Word64) (p : Paddles) (x : Bool), f.cfg.modeB = false →
    (f.tick now p).output p = ({ f with sqz := x }.tick now p).output p ∧
      { f with sqz := x }.tick now p = { f.tick now p with sqz := ({ f with sqz := x }.tick now p).sqz }

/-! ### Producer tick (45_producer.md) -/

/-- PROD_TICK is IamStep, then PUSH of its sample, then HRT_TICK on context 0, then the latch and the fault check: after the FSM tick,
it leaves what those two commands and that check leave, answers the kind of the HRT_TICK, and its value is the sample with the key
output `OUT_LATCH & ~a` in bit 48, `a` being its own load of ACTIVE (45_producer.md R340). Bit 48 is pin TX_KEY after the
command (30_encoding.md R145; 45_producer.md R342), unless that load returned an older 0 while ACTIVE and the latch are 1.
That bit 48 takes `a` there too is the model's reading (log entry 13). -/
def Obligations.ProdTickIsTickPushConsumeCheck : Prop :=
  ∀ (a b : Word64) (s t u : State) (x : Sample) (r : Response), s.unlimited → s.admitsCommand (.prodTick a b) →
    (s.port s.issuer).thread = none → x = (s.fsm.tick a (operandPaddles b)).output (operandPaddles b) →
    exec (.push (x.zeroExtend 64)) { s with fsm := s.fsm.tick a (operandPaddles b) } = .next t →
    exec (.hrtTick 0) t = .next u → (u.port s.issuer).response = some r →
    ∃ latched : State, ∃ active : Bool, ∃ v : Word64,
      latched.outLatch =
        (if active = true then false
          else if r.kind = .ok ∧ sampleSilence (operandSample r.v) = false then sampleKey (operandSample r.v)
          else s.outLatch) ∧
      active = (u.acqLoadActive s.issuer).1 ∧
      latched = { (u.acqLoadActive s.issuer).2 with outLatch := latched.outLatch } ∧
      v.extractLsb' 0 48 = x ∧ v.getLsbD 48 = (latched.outLatch && !active) ∧ v.extractLsb' 49 15 = 0 ∧
      (active = true ∨ u.active.cur = 0 ∨ latched.outLatch = false → v.getLsbD 48 = latched.txKey) ∧
      exec (.prodTick a b) s = .next (latched.respond s.issuer (okResponse r.kind v))

/-- While a fault is active (both of the tick's loads of ACTIVE return 1) PROD_TICK still runs the FSM and the push, answers FAULT with
the key output 0, forces the latch to 0, and leaves the fault record and context 0 as they are (45_producer.md R340, R346;
60_exceptions.md R414).
That R414 means a tick whose loads return 1 is the model's reading (log entry 30). -/
def Obligations.ProdTickUnderAFaultForcesTheKeyUp : Prop :=
  ∀ (a b : Word64) (s : State) (x : Sample), s.unlimited → s.admitsCommand (.prodTick a b) →
    (s.acqLoadActive s.issuer).1 = true → ((s.acqLoadActive s.issuer).2.acqLoadActive s.issuer).1 = true →
    x = (s.fsm.tick a (operandPaddles b)).output (operandPaddles b) →
    Ends s (exec (.prodTick a b) s) (okResponse .fault (x.zeroExtend 64)) fun t =>
      t.outLatch = false ∧ t.txKey = false ∧ t.fsm = s.fsm.tick a (operandPaddles b) ∧
        WroteSlots (if sameSample x s.last = true then [] else pendingMarker s ++ [annotate x s.last]) s t ∧
        SameFault s t ∧ t.ctxs = s.ctxs ∧ SameOutside s t

/-- The lag of context 0 stays bounded: under PROD_TICKs, with no fault, `MAXLAG >= 2` and room for two samples, a lag of at most 1
that is 0 while ticks are pending is kept, the key output is the latch, and no tick faults (45_producer.md R344). Of W and of ACTIVE
alike, the producer has seen the latest value, or its loads ask for no older one; afterwards it has seen the latest of both.
That R344's "no fault is active" is about what the producer's loads return too is the model's reading (log entry 30). -/
def Obligations.ProdTickKeepsTheLagBounded : Prop :=
  ∀ (a b : Word64) (s : State), s.unlimited → s.admitsCommand (.prodTick a b) → s.active.cur = 0 →
    s.seesActive .producer ∨ s.asksForLatest → s.seesW .producer ∨ s.asksForLatest → s.pw = s.w.cur → s.strmInitRunning = false → 1 ≤ s.params.capLog2.val →
    2 ≤ (s.ctx 0).maxLag.toNat → (s.w.cur - (s.ctx 0).cur).toNat ≤ 1 →
    (s.idleCnt ≠ 0 → s.w.cur = (s.ctx 0).cur) →
    ∃ k v, k ≠ .fault ∧ Ends s (exec (.prodTick a b) s) (okResponse k v) fun t =>
      t.active.cur = 0 ∧ t.seesActive .producer ∧ t.seesW .producer ∧ t.pw = t.w.cur ∧
        (t.ctx 0).maxLag = (s.ctx 0).maxLag ∧ (t.ctx 0).mode = .hrt ∧ (t.w.cur - (t.ctx 0).cur).toNat ≤ 1 ∧
        (t.idleCnt ≠ 0 → t.w.cur = (t.ctx 0).cur) ∧ v.getLsbD 48 = t.outLatch ∧ t.txKey = t.outLatch ∧
        SameFault s t ∧ SameOtherContexts 0 s t

/-- Only PROD_TICK writes the latch, and only IAM_CFG, IAM_TICK and PROD_TICK write the FSM; so once the latch is 0 the key output stays
0 until a PROD_TICK, fault cleared or not. The same of a step that goes on with a command (45_producer.md R341, R346; 10_state.md R66,
R68).
The commands in progress are the model's form of an interleaving (log entries 2, 15). -/
def Obligations.OutputLatchHasOneWriter : Prop :=
  ∀ (i : Instr) (s t : State), (∀ a b, i ≠ .prodTick a b) →
    exec i s = .next t ∨ (∃ g, s.nextRuns g i) ∧ step s = .next t →
    t.outLatch = s.outLatch ∧ (s.outLatch = false → t.txKey = false) ∧
      ((∀ a, i ≠ .iamCfg a) → (∀ a b, i ≠ .iamTick a b) → t.fsm = s.fsm)

/-! ### The whole block -/

/-- No command of a reader or of the operator writes W, a slot, LAST, IDLE_CNT or PW; the four that would are refused by the role
check. No step that goes on with a command of theirs does either (10_state.md R35, R36).
The commands in progress are the model's form of an interleaving (log entries 2, 15). -/
def Obligations.OnlyTheProducerWritesTheStream : Prop :=
  ∀ (i : Instr) (s t : State),
    (s.issuer ≠ .producer → exec i s = .next t →
      SameStream s t ∧
        ∀ a, i ∈ [.strmInit, .push a, .pushRaw a, .flush] →
          (t.port s.issuer).response = some (errorResponse .errRole)) ∧
    ∀ g, g ≠ .producer → s.nextRuns g i → step s = .next t → SameStream s t

/-- A context is written only by commands its owner issues, and by steps that go on with one of them (10_state.md R50; 20_memory.md R92).
The commands in progress are the model's form of an interleaving (log entries 2, 15). -/
def Obligations.ContextsArePrivate : Prop :=
  ∀ (i : Instr) (s t : State) (k : CtxIdx),
    (s.issuer.ownContext ≠ some k → exec i s = .next t → t.ctx k = s.ctx k) ∧
    ∀ g, g.ownContext ≠ some k → s.nextRuns g i → step s = .next t → t.ctx k = s.ctx k

/-- Every step keeps the sparse tables canonical and within the slots, contexts and agents that exist, with the commands in progress
legal; and it keeps every command in progress what is left of a command that its agent may issue (10_state.md R32, R50; 20_memory.md
R100; 60_exceptions.md R410).
The tables and their canonical form are the model's (log entry 9), and so are the commands in progress (log entries 2, 15). -/
def Obligations.StepKeepsTheStorageCanonical : Prop :=
  ∀ s t : State, step s = .next t →
    (s.threadsLegal → s.storageCanonical → t.threadsLegal ∧ t.storageCanonical) ∧ (s.threadsOwned → t.threadsOwned)

/-- Every step keeps reserved Sample bits 0 in every slot and in LAST, and CODE among the five values of the enumeration
(30_encoding.md R136; 10_state.md R45; 40_stream.md R216). -/
def Obligations.StepKeepsTheStoredValuesLegal : Prop :=
  ∀ s t : State, s.threadsLegal → s.samplesLegal → s.codesLegal → step s = .next t → t.samplesLegal ∧ t.codesLegal

/-- Every step keeps rule R311: the key is down exactly inside an element, so an idle FSM has the key up, and it has nothing
remembered (44_iambic.md R311; 10_state.md R62). -/
def Obligations.StepKeepsTheFsmInStep : Prop :=
  ∀ s t : State, s.fsm.inStep → step s = .next t → t.fsm.inStep

/-- Every step keeps rule R37: PW is W between slot writes and one more inside one (10_state.md); and between the two micro-steps of
STRM_INIT, where PW is zeroed and W is not stored yet, PW is 0 (the phase `zeroed`).
That STRM_INIT has those two micro-steps is the model's reading of R200 (log entry 6). -/
def Obligations.StepKeepsTheWriterInStep : Prop :=
  ∀ s t : State, s.writerInStep → step s = .next t → t.writerInStep

/-- Every step keeps the views, and what the agents have loaded, within the modification orders: no load returns a value that was not
stored (20_memory.md R89, R103, R105).
The views are the model's form of the rules (log entry 22). -/
def Obligations.StepKeepsTheViewsWithin : Prop :=
  ∀ s t : State, s.viewsWithin → step s = .next t → t.viewsWithin

/-- The state after reset, for every CAP and NC, has every invariant that the step keeps.
The parameters are a field of the model's state (log entry 1). -/
def Obligations.ResetHasEveryInvariant : Prop :=
  ∀ p : Params, (State.resetWith p).threadsLegal ∧ (State.resetWith p).threadsOwned ∧ (State.resetWith p).storageCanonical ∧
    (State.resetWith p).samplesLegal ∧ (State.resetWith p).codesLegal ∧ (State.resetWith p).fsm.inStep ∧
    (State.resetWith p).writerInStep ∧ (State.resetWith p).viewsWithin
end

