-- ==== Sys2Proof/Laws/Sparse.lean ====
section
/-!
SUPPORT. The laws of sparse tables: a read after a write, the canonical form, and what writing twice leaves.
-/

namespace Sys2Proof.Machine

variable {α : Type} {d : α}

theorem sparseGet_erase (l : List (Nat × α)) (k j : Nat) :
    sparseGet d (sparseErase l k) j = if j = k then d else sparseGet d l j := by
  induction l with
  | nil => simp [sparseErase, sparseGet]
  | cons e rest ih =>
    obtain ⟨i, v⟩ := e
    by_cases hik : i = k
    · subst hik
      by_cases hj : j = i
      · subst hj; simpa [sparseErase] using ih
      · simp [sparseErase, sparseGet, ih, hj, Ne.symm hj]
    · by_cases hj : j = k
      · subst hj; simp [sparseErase, sparseGet, hik, ih]
      · simp [sparseErase, sparseGet, hik, ih, hj]

theorem sparseGet_insert (l : List (Nat × α)) (k j : Nat) (v : α) (h : ∀ e ∈ l, e.1 ≠ k) :
    sparseGet d (sparseInsert k v l) j = if j = k then v else sparseGet d l j := by
  induction l with
  | nil => simp [sparseInsert, sparseGet, eq_comm]
  | cons e rest ih =>
    obtain ⟨i, u⟩ := e
    have hi : i ≠ k := h (i, u) (by simp)
    have ih := ih fun e he => h e (by simp [he])
    by_cases hlt : k < i
    · simp [sparseInsert, sparseGet, hlt, eq_comm (a := k)]
    · by_cases hj : j = k
      · subst hj; simp [sparseInsert, sparseGet, hlt, hi, ih]
      · simp [sparseInsert, sparseGet, hlt, hj, ih]

theorem mem_sparseErase (l : List (Nat × α)) (k : Nat) (e : Nat × α) :
    e ∈ sparseErase l k ↔ e ∈ l ∧ e.1 ≠ k := by
  induction l with
  | nil => simp [sparseErase]
  | cons x rest ih =>
    obtain ⟨i, v⟩ := x
    by_cases hik : i = k
    · subst hik
      simp only [sparseErase, if_true, ih, List.mem_cons]
      constructor
      · rintro ⟨h1, h2⟩; exact ⟨.inr h1, h2⟩
      · rintro ⟨rfl | h1, h2⟩
        · exact absurd rfl h2
        · exact ⟨h1, h2⟩
    · simp only [sparseErase, hik, if_false, List.mem_cons, ih]
      constructor
      · rintro (rfl | ⟨h1, h2⟩)
        · exact ⟨.inl rfl, hik⟩
        · exact ⟨.inr h1, h2⟩
      · rintro ⟨rfl | h1, h2⟩
        · exact .inl rfl
        · exact .inr ⟨h1, h2⟩

theorem mem_sparseInsert (l : List (Nat × α)) (k : Nat) (v : α) (e : Nat × α) :
    e ∈ sparseInsert k v l ↔ e = (k, v) ∨ e ∈ l := by
  induction l with
  | nil => simp [sparseInsert]
  | cons x rest ih =>
    by_cases h : k < x.1
    · simp [sparseInsert, h]
    · simp only [sparseInsert, h, if_false, List.mem_cons, ih]; tauto

/-- A read after a write: the value written at its key, and every other key as before. -/
theorem sparseGet_put [DecidableEq α] (l : List (Nat × α)) (k j : Nat) (v : α) :
    sparseGet d (sparsePut d l k v) j = if j = k then v else sparseGet d l j := by
  unfold sparsePut
  by_cases hv : v = d
  · simp only [hv, if_true, sparseGet_erase]
  · rw [if_neg hv, sparseGet_insert _ _ _ _ (by simp [mem_sparseErase]), sparseGet_erase]
    by_cases hj : j = k <;> simp [hj]

@[simp] theorem sparseGet_put_same [DecidableEq α] (l : List (Nat × α)) (k : Nat) (v : α) :
    sparseGet d (sparsePut d l k v) k = v := by simp [sparseGet_put]

theorem sparseGet_put_other [DecidableEq α] (l : List (Nat × α)) {k j : Nat} (v : α) (h : j ≠ k) :
    sparseGet d (sparsePut d l k v) j = sparseGet d l j := by simp [sparseGet_put, h]

/-- What a table gives is the default or an entry. -/
theorem sparseGet_default_or_mem (l : List (Nat × α)) (k : Nat) : sparseGet d l k = d ∨ ∃ e ∈ l, sparseGet d l k = e.2 := by
  induction l with
  | nil => exact .inl rfl
  | cons x rest ih =>
    simp only [sparseGet]
    split
    · exact .inr ⟨x, by simp, rfl⟩
    · rcases ih with h | ⟨e, he, h⟩
      · exact .inl h
      · exact .inr ⟨e, List.mem_cons_of_mem _ he, h⟩

theorem sparseErase_of_notMem (l : List (Nat × α)) (k : Nat) (h : ∀ e ∈ l, e.1 ≠ k) : sparseErase l k = l := by
  induction l with
  | nil => rfl
  | cons x rest ih => simp [sparseErase, h x (by simp), ih fun e he => h e (by simp [he])]

theorem sparseErase_insert (l : List (Nat × α)) (k : Nat) (v : α) (h : ∀ e ∈ l, e.1 ≠ k) :
    sparseErase (sparseInsert k v l) k = l := by
  induction l with
  | nil => simp [sparseInsert, sparseErase]
  | cons x rest ih =>
    have hx : x.1 ≠ k := h x (by simp)
    have hr := fun e he => h e (List.mem_cons_of_mem x he)
    by_cases hlt : k < x.1
    · simp [sparseInsert, hlt, sparseErase, hx, sparseErase_of_notMem rest k hr]
    · simp [sparseInsert, hlt, sparseErase, hx, ih hr]

/-- Writing a key twice leaves what the second write leaves. -/
@[simp] theorem sparsePut_put [DecidableEq α] (l : List (Nat × α)) (k : Nat) (v u : α) :
    sparsePut d (sparsePut d l k v) k u = sparsePut d l k u := by
  have h : sparseErase (sparsePut d l k v) k = sparseErase l k := by
    unfold sparsePut
    split
    · exact sparseErase_of_notMem _ _ (by simp [mem_sparseErase])
    · exact sparseErase_insert _ _ _ (by simp [mem_sparseErase])
  rw [sparsePut, h, ← sparsePut]

theorem sparseErase_sorted (l : List (Nat × α)) (k : Nat) (h : l.Pairwise fun x y => x.1 < y.1) :
    (sparseErase l k).Pairwise fun x y => x.1 < y.1 := by
  induction l with
  | nil => simp [sparseErase]
  | cons x rest ih =>
    obtain ⟨hx, hr⟩ := List.pairwise_cons.1 h
    by_cases hk : x.1 = k
    · simp [sparseErase, hk, ih hr]
    · simp only [sparseErase, hk, if_false, List.pairwise_cons]
      exact ⟨fun e he => hx e ((mem_sparseErase _ _ _).1 he).1, ih hr⟩

theorem sparseInsert_sorted (l : List (Nat × α)) (k : Nat) (v : α) (h : l.Pairwise fun x y => x.1 < y.1)
    (hk : ∀ e ∈ l, e.1 ≠ k) : (sparseInsert k v l).Pairwise fun x y => x.1 < y.1 := by
  induction l with
  | nil => simp [sparseInsert]
  | cons x rest ih =>
    obtain ⟨hx, hr⟩ := List.pairwise_cons.1 h
    by_cases hlt : k < x.1
    · simp only [sparseInsert, hlt, if_true, List.pairwise_cons]
      refine ⟨fun e he => ?_, hx, hr⟩
      rcases List.mem_cons.1 he with rfl | he
      · exact hlt
      · exact lt_trans hlt (hx e he)
    · have hne : x.1 ≠ k := hk x (by simp)
      simp only [sparseInsert, hlt, if_false, List.pairwise_cons]
      refine ⟨fun e he => ?_, ih hr fun e he => hk e (List.mem_cons_of_mem x he)⟩
      rcases (mem_sparseInsert _ _ _ _).1 he with rfl | he
      · show x.1 < k; omega
      · exact hx e he

/-- Every write below the bound keeps the canonical form. -/
theorem sparsePut_wf [DecidableEq α] {bound : Nat} (l : List (Nat × α)) (k : Nat) (v : α) (h : sparseWf d bound l)
    (hk : k < bound) : sparseWf d bound (sparsePut d l k v) := by
  unfold sparsePut
  have he : sparseWf d bound (sparseErase l k) :=
    ⟨sparseErase_sorted l k h.1, fun e he => h.2 e ((mem_sparseErase _ _ _).1 he).1⟩
  split
  · exact he
  · rename_i hv
    refine ⟨sparseInsert_sorted _ _ _ he.1 (by simp [mem_sparseErase]), fun e hm => ?_⟩
    rcases (mem_sparseInsert _ _ _ _).1 hm with rfl | hm
    · exact ⟨hk, hv⟩
    · exact he.2 e hm

end Sys2Proof.Machine
end

