-- ==== Sys2Proof/Laws/State.lean ====
section
/-!
SUPPORT. One lemma per field for every update of the state, true by `rfl`: no later proof unfolds an update of a field it
does not change. What the updates do to the fields they change is in Laws/Storage.lean.
-/

namespace Sys2Proof.Machine.State


/-! ### `setPort` leaves every other field alone -/

@[simp] theorem setPort_params (s : State) (a : Agent) (p : Port) : (s.setPort a p).params = s.params := rfl
@[simp] theorem setPort_w (s : State) (a : Agent) (p : Port) : (s.setPort a p).w = s.w := rfl
@[simp] theorem setPort_slots (s : State) (a : Agent) (p : Port) : (s.setPort a p).slots = s.slots := rfl
@[simp] theorem setPort_last (s : State) (a : Agent) (p : Port) : (s.setPort a p).last = s.last := rfl
@[simp] theorem setPort_idleCnt (s : State) (a : Agent) (p : Port) : (s.setPort a p).idleCnt = s.idleCnt := rfl
@[simp] theorem setPort_pw (s : State) (a : Agent) (p : Port) : (s.setPort a p).pw = s.pw := rfl
@[simp] theorem setPort_active (s : State) (a : Agent) (p : Port) : (s.setPort a p).active = s.active := rfl
@[simp] theorem setPort_code (s : State) (a : Agent) (p : Port) : (s.setPort a p).code = s.code := rfl
@[simp] theorem setPort_data (s : State) (a : Agent) (p : Port) : (s.setPort a p).data = s.data := rfl
@[simp] theorem setPort_count (s : State) (a : Agent) (p : Port) : (s.setPort a p).count = s.count := rfl
@[simp] theorem setPort_ctxs (s : State) (a : Agent) (p : Port) : (s.setPort a p).ctxs = s.ctxs := rfl
@[simp] theorem setPort_fsm (s : State) (a : Agent) (p : Port) : (s.setPort a p).fsm = s.fsm := rfl
@[simp] theorem setPort_outLatch (s : State) (a : Agent) (p : Port) : (s.setPort a p).outLatch = s.outLatch := rfl
@[simp] theorem setPort_inboxes (s : State) (a : Agent) (p : Port) : (s.setPort a p).inboxes = s.inboxes := rfl
@[simp] theorem setPort_turns (s : State) (a : Agent) (p : Port) : (s.setPort a p).turns = s.turns := rfl
@[simp] theorem setPort_turn (s : State) (a : Agent) (p : Port) : (s.setPort a p).turn = s.turn := rfl
@[simp] theorem setPort_draws (s : State) (a : Agent) (p : Port) : (s.setPort a p).draws = s.draws := rfl

/-! ### `setView` leaves every other field alone -/

@[simp] theorem setView_params (s : State) (a : Agent) (v : View) : (s.setView a v).params = s.params := rfl
@[simp] theorem setView_w (s : State) (a : Agent) (v : View) : (s.setView a v).w = s.w := rfl
@[simp] theorem setView_slots (s : State) (a : Agent) (v : View) : (s.setView a v).slots = s.slots := rfl
@[simp] theorem setView_last (s : State) (a : Agent) (v : View) : (s.setView a v).last = s.last := rfl
@[simp] theorem setView_idleCnt (s : State) (a : Agent) (v : View) : (s.setView a v).idleCnt = s.idleCnt := rfl
@[simp] theorem setView_pw (s : State) (a : Agent) (v : View) : (s.setView a v).pw = s.pw := rfl
@[simp] theorem setView_active (s : State) (a : Agent) (v : View) : (s.setView a v).active = s.active := rfl
@[simp] theorem setView_code (s : State) (a : Agent) (v : View) : (s.setView a v).code = s.code := rfl
@[simp] theorem setView_data (s : State) (a : Agent) (v : View) : (s.setView a v).data = s.data := rfl
@[simp] theorem setView_count (s : State) (a : Agent) (v : View) : (s.setView a v).count = s.count := rfl
@[simp] theorem setView_ctxs (s : State) (a : Agent) (v : View) : (s.setView a v).ctxs = s.ctxs := rfl
@[simp] theorem setView_fsm (s : State) (a : Agent) (v : View) : (s.setView a v).fsm = s.fsm := rfl
@[simp] theorem setView_outLatch (s : State) (a : Agent) (v : View) : (s.setView a v).outLatch = s.outLatch := rfl
@[simp] theorem setView_inboxes (s : State) (a : Agent) (v : View) : (s.setView a v).inboxes = s.inboxes := rfl
@[simp] theorem setView_turns (s : State) (a : Agent) (v : View) : (s.setView a v).turns = s.turns := rfl
@[simp] theorem setView_turn (s : State) (a : Agent) (v : View) : (s.setView a v).turn = s.turn := rfl
@[simp] theorem setView_draws (s : State) (a : Agent) (v : View) : (s.setView a v).draws = s.draws := rfl

/-! ### `setLoaded` leaves every other field alone -/

@[simp] theorem setLoaded_params (s : State) (a : Agent) (l : Loaded) : (s.setLoaded a l).params = s.params := rfl
@[simp] theorem setLoaded_w (s : State) (a : Agent) (l : Loaded) : (s.setLoaded a l).w = s.w := rfl
@[simp] theorem setLoaded_slots (s : State) (a : Agent) (l : Loaded) : (s.setLoaded a l).slots = s.slots := rfl
@[simp] theorem setLoaded_last (s : State) (a : Agent) (l : Loaded) : (s.setLoaded a l).last = s.last := rfl
@[simp] theorem setLoaded_idleCnt (s : State) (a : Agent) (l : Loaded) : (s.setLoaded a l).idleCnt = s.idleCnt := rfl
@[simp] theorem setLoaded_pw (s : State) (a : Agent) (l : Loaded) : (s.setLoaded a l).pw = s.pw := rfl
@[simp] theorem setLoaded_active (s : State) (a : Agent) (l : Loaded) : (s.setLoaded a l).active = s.active := rfl
@[simp] theorem setLoaded_code (s : State) (a : Agent) (l : Loaded) : (s.setLoaded a l).code = s.code := rfl
@[simp] theorem setLoaded_data (s : State) (a : Agent) (l : Loaded) : (s.setLoaded a l).data = s.data := rfl
@[simp] theorem setLoaded_count (s : State) (a : Agent) (l : Loaded) : (s.setLoaded a l).count = s.count := rfl
@[simp] theorem setLoaded_ctxs (s : State) (a : Agent) (l : Loaded) : (s.setLoaded a l).ctxs = s.ctxs := rfl
@[simp] theorem setLoaded_fsm (s : State) (a : Agent) (l : Loaded) : (s.setLoaded a l).fsm = s.fsm := rfl
@[simp] theorem setLoaded_outLatch (s : State) (a : Agent) (l : Loaded) : (s.setLoaded a l).outLatch = s.outLatch := rfl
@[simp] theorem setLoaded_inboxes (s : State) (a : Agent) (l : Loaded) : (s.setLoaded a l).inboxes = s.inboxes := rfl
@[simp] theorem setLoaded_turns (s : State) (a : Agent) (l : Loaded) : (s.setLoaded a l).turns = s.turns := rfl
@[simp] theorem setLoaded_turn (s : State) (a : Agent) (l : Loaded) : (s.setLoaded a l).turn = s.turn := rfl
@[simp] theorem setLoaded_draws (s : State) (a : Agent) (l : Loaded) : (s.setLoaded a l).draws = s.draws := rfl

/-! ### `setInbox` leaves every other field alone -/

@[simp] theorem setInbox_params (s : State) (a : Agent) (cs : List Command) : (s.setInbox a cs).params = s.params := rfl
@[simp] theorem setInbox_w (s : State) (a : Agent) (cs : List Command) : (s.setInbox a cs).w = s.w := rfl
@[simp] theorem setInbox_slots (s : State) (a : Agent) (cs : List Command) : (s.setInbox a cs).slots = s.slots := rfl
@[simp] theorem setInbox_last (s : State) (a : Agent) (cs : List Command) : (s.setInbox a cs).last = s.last := rfl
@[simp] theorem setInbox_idleCnt (s : State) (a : Agent) (cs : List Command) : (s.setInbox a cs).idleCnt = s.idleCnt := rfl
@[simp] theorem setInbox_pw (s : State) (a : Agent) (cs : List Command) : (s.setInbox a cs).pw = s.pw := rfl
@[simp] theorem setInbox_active (s : State) (a : Agent) (cs : List Command) : (s.setInbox a cs).active = s.active := rfl
@[simp] theorem setInbox_code (s : State) (a : Agent) (cs : List Command) : (s.setInbox a cs).code = s.code := rfl
@[simp] theorem setInbox_data (s : State) (a : Agent) (cs : List Command) : (s.setInbox a cs).data = s.data := rfl
@[simp] theorem setInbox_count (s : State) (a : Agent) (cs : List Command) : (s.setInbox a cs).count = s.count := rfl
@[simp] theorem setInbox_ctxs (s : State) (a : Agent) (cs : List Command) : (s.setInbox a cs).ctxs = s.ctxs := rfl
@[simp] theorem setInbox_fsm (s : State) (a : Agent) (cs : List Command) : (s.setInbox a cs).fsm = s.fsm := rfl
@[simp] theorem setInbox_outLatch (s : State) (a : Agent) (cs : List Command) : (s.setInbox a cs).outLatch = s.outLatch := rfl
@[simp] theorem setInbox_ports (s : State) (a : Agent) (cs : List Command) : (s.setInbox a cs).ports = s.ports := rfl
@[simp] theorem setInbox_turns (s : State) (a : Agent) (cs : List Command) : (s.setInbox a cs).turns = s.turns := rfl
@[simp] theorem setInbox_turn (s : State) (a : Agent) (cs : List Command) : (s.setInbox a cs).turn = s.turn := rfl
@[simp] theorem setInbox_draws (s : State) (a : Agent) (cs : List Command) : (s.setInbox a cs).draws = s.draws := rfl

/-! ### `setCtx` leaves every other field alone -/

@[simp] theorem setCtx_params (s : State) (k : CtxIdx) (c : Context) : (s.setCtx k c).params = s.params := rfl
@[simp] theorem setCtx_w (s : State) (k : CtxIdx) (c : Context) : (s.setCtx k c).w = s.w := rfl
@[simp] theorem setCtx_slots (s : State) (k : CtxIdx) (c : Context) : (s.setCtx k c).slots = s.slots := rfl
@[simp] theorem setCtx_last (s : State) (k : CtxIdx) (c : Context) : (s.setCtx k c).last = s.last := rfl
@[simp] theorem setCtx_idleCnt (s : State) (k : CtxIdx) (c : Context) : (s.setCtx k c).idleCnt = s.idleCnt := rfl
@[simp] theorem setCtx_pw (s : State) (k : CtxIdx) (c : Context) : (s.setCtx k c).pw = s.pw := rfl
@[simp] theorem setCtx_active (s : State) (k : CtxIdx) (c : Context) : (s.setCtx k c).active = s.active := rfl
@[simp] theorem setCtx_code (s : State) (k : CtxIdx) (c : Context) : (s.setCtx k c).code = s.code := rfl
@[simp] theorem setCtx_data (s : State) (k : CtxIdx) (c : Context) : (s.setCtx k c).data = s.data := rfl
@[simp] theorem setCtx_count (s : State) (k : CtxIdx) (c : Context) : (s.setCtx k c).count = s.count := rfl
@[simp] theorem setCtx_fsm (s : State) (k : CtxIdx) (c : Context) : (s.setCtx k c).fsm = s.fsm := rfl
@[simp] theorem setCtx_outLatch (s : State) (k : CtxIdx) (c : Context) : (s.setCtx k c).outLatch = s.outLatch := rfl
@[simp] theorem setCtx_ports (s : State) (k : CtxIdx) (c : Context) : (s.setCtx k c).ports = s.ports := rfl
@[simp] theorem setCtx_inboxes (s : State) (k : CtxIdx) (c : Context) : (s.setCtx k c).inboxes = s.inboxes := rfl
@[simp] theorem setCtx_turns (s : State) (k : CtxIdx) (c : Context) : (s.setCtx k c).turns = s.turns := rfl
@[simp] theorem setCtx_turn (s : State) (k : CtxIdx) (c : Context) : (s.setCtx k c).turn = s.turn := rfl
@[simp] theorem setCtx_draws (s : State) (k : CtxIdx) (c : Context) : (s.setCtx k c).draws = s.draws := rfl

/-! ### `setSlot` leaves every other field alone -/

@[simp] theorem setSlot_params (s : State) (n : Nat) (v : Sample) : (s.setSlot n v).params = s.params := rfl
@[simp] theorem setSlot_w (s : State) (n : Nat) (v : Sample) : (s.setSlot n v).w = s.w := rfl
@[simp] theorem setSlot_last (s : State) (n : Nat) (v : Sample) : (s.setSlot n v).last = s.last := rfl
@[simp] theorem setSlot_idleCnt (s : State) (n : Nat) (v : Sample) : (s.setSlot n v).idleCnt = s.idleCnt := rfl
@[simp] theorem setSlot_pw (s : State) (n : Nat) (v : Sample) : (s.setSlot n v).pw = s.pw := rfl
@[simp] theorem setSlot_active (s : State) (n : Nat) (v : Sample) : (s.setSlot n v).active = s.active := rfl
@[simp] theorem setSlot_code (s : State) (n : Nat) (v : Sample) : (s.setSlot n v).code = s.code := rfl
@[simp] theorem setSlot_data (s : State) (n : Nat) (v : Sample) : (s.setSlot n v).data = s.data := rfl
@[simp] theorem setSlot_count (s : State) (n : Nat) (v : Sample) : (s.setSlot n v).count = s.count := rfl
@[simp] theorem setSlot_ctxs (s : State) (n : Nat) (v : Sample) : (s.setSlot n v).ctxs = s.ctxs := rfl
@[simp] theorem setSlot_fsm (s : State) (n : Nat) (v : Sample) : (s.setSlot n v).fsm = s.fsm := rfl
@[simp] theorem setSlot_outLatch (s : State) (n : Nat) (v : Sample) : (s.setSlot n v).outLatch = s.outLatch := rfl
@[simp] theorem setSlot_ports (s : State) (n : Nat) (v : Sample) : (s.setSlot n v).ports = s.ports := rfl
@[simp] theorem setSlot_inboxes (s : State) (n : Nat) (v : Sample) : (s.setSlot n v).inboxes = s.inboxes := rfl
@[simp] theorem setSlot_turns (s : State) (n : Nat) (v : Sample) : (s.setSlot n v).turns = s.turns := rfl
@[simp] theorem setSlot_turn (s : State) (n : Nat) (v : Sample) : (s.setSlot n v).turn = s.turn := rfl
@[simp] theorem setSlot_draws (s : State) (n : Nat) (v : Sample) : (s.setSlot n v).draws = s.draws := rfl

/-! ### `dropAge` leaves every other field alone -/

@[simp] theorem dropAge_params (s : State) : (s.dropAge).params = s.params := rfl
@[simp] theorem dropAge_w (s : State) : (s.dropAge).w = s.w := rfl
@[simp] theorem dropAge_slots (s : State) : (s.dropAge).slots = s.slots := rfl
@[simp] theorem dropAge_last (s : State) : (s.dropAge).last = s.last := rfl
@[simp] theorem dropAge_idleCnt (s : State) : (s.dropAge).idleCnt = s.idleCnt := rfl
@[simp] theorem dropAge_pw (s : State) : (s.dropAge).pw = s.pw := rfl
@[simp] theorem dropAge_active (s : State) : (s.dropAge).active = s.active := rfl
@[simp] theorem dropAge_code (s : State) : (s.dropAge).code = s.code := rfl
@[simp] theorem dropAge_data (s : State) : (s.dropAge).data = s.data := rfl
@[simp] theorem dropAge_count (s : State) : (s.dropAge).count = s.count := rfl
@[simp] theorem dropAge_ctxs (s : State) : (s.dropAge).ctxs = s.ctxs := rfl
@[simp] theorem dropAge_fsm (s : State) : (s.dropAge).fsm = s.fsm := rfl
@[simp] theorem dropAge_outLatch (s : State) : (s.dropAge).outLatch = s.outLatch := rfl
@[simp] theorem dropAge_ports (s : State) : (s.dropAge).ports = s.ports := rfl
@[simp] theorem dropAge_inboxes (s : State) : (s.dropAge).inboxes = s.inboxes := rfl
@[simp] theorem dropAge_turns (s : State) : (s.dropAge).turns = s.turns := rfl
@[simp] theorem dropAge_draws (s : State) : (s.dropAge).draws = s.draws := rfl

/-! ### `spend` leaves every other field alone -/

@[simp] theorem spend_params (s : State) : (s.spend).params = s.params := rfl
@[simp] theorem spend_w (s : State) : (s.spend).w = s.w := rfl
@[simp] theorem spend_slots (s : State) : (s.spend).slots = s.slots := rfl
@[simp] theorem spend_last (s : State) : (s.spend).last = s.last := rfl
@[simp] theorem spend_idleCnt (s : State) : (s.spend).idleCnt = s.idleCnt := rfl
@[simp] theorem spend_pw (s : State) : (s.spend).pw = s.pw := rfl
@[simp] theorem spend_active (s : State) : (s.spend).active = s.active := rfl
@[simp] theorem spend_code (s : State) : (s.spend).code = s.code := rfl
@[simp] theorem spend_data (s : State) : (s.spend).data = s.data := rfl
@[simp] theorem spend_count (s : State) : (s.spend).count = s.count := rfl
@[simp] theorem spend_ctxs (s : State) : (s.spend).ctxs = s.ctxs := rfl
@[simp] theorem spend_fsm (s : State) : (s.spend).fsm = s.fsm := rfl
@[simp] theorem spend_outLatch (s : State) : (s.spend).outLatch = s.outLatch := rfl
@[simp] theorem spend_ports (s : State) : (s.spend).ports = s.ports := rfl
@[simp] theorem spend_inboxes (s : State) : (s.spend).inboxes = s.inboxes := rfl
@[simp] theorem spend_turns (s : State) : (s.spend).turns = s.turns := rfl
@[simp] theorem spend_draws (s : State) : (s.spend).draws = s.draws := rfl

/-! ### `acqLoadW_state` leaves every other field alone -/

@[simp] theorem acqLoadW_state_params (s : State) (a : Agent) : ((s.acqLoadW a).2).params = s.params := rfl
@[simp] theorem acqLoadW_state_w (s : State) (a : Agent) : ((s.acqLoadW a).2).w = s.w := rfl
@[simp] theorem acqLoadW_state_slots (s : State) (a : Agent) : ((s.acqLoadW a).2).slots = s.slots := rfl
@[simp] theorem acqLoadW_state_last (s : State) (a : Agent) : ((s.acqLoadW a).2).last = s.last := rfl
@[simp] theorem acqLoadW_state_idleCnt (s : State) (a : Agent) : ((s.acqLoadW a).2).idleCnt = s.idleCnt := rfl
@[simp] theorem acqLoadW_state_pw (s : State) (a : Agent) : ((s.acqLoadW a).2).pw = s.pw := rfl
@[simp] theorem acqLoadW_state_active (s : State) (a : Agent) : ((s.acqLoadW a).2).active = s.active := rfl
@[simp] theorem acqLoadW_state_code (s : State) (a : Agent) : ((s.acqLoadW a).2).code = s.code := rfl
@[simp] theorem acqLoadW_state_data (s : State) (a : Agent) : ((s.acqLoadW a).2).data = s.data := rfl
@[simp] theorem acqLoadW_state_count (s : State) (a : Agent) : ((s.acqLoadW a).2).count = s.count := rfl
@[simp] theorem acqLoadW_state_ctxs (s : State) (a : Agent) : ((s.acqLoadW a).2).ctxs = s.ctxs := rfl
@[simp] theorem acqLoadW_state_fsm (s : State) (a : Agent) : ((s.acqLoadW a).2).fsm = s.fsm := rfl
@[simp] theorem acqLoadW_state_outLatch (s : State) (a : Agent) : ((s.acqLoadW a).2).outLatch = s.outLatch := rfl
@[simp] theorem acqLoadW_state_inboxes (s : State) (a : Agent) : ((s.acqLoadW a).2).inboxes = s.inboxes := rfl
@[simp] theorem acqLoadW_state_turns (s : State) (a : Agent) : ((s.acqLoadW a).2).turns = s.turns := rfl
@[simp] theorem acqLoadW_state_draws (s : State) (a : Agent) : ((s.acqLoadW a).2).draws = s.draws := rfl

/-! ### `relStoreW` leaves every other field alone -/

@[simp] theorem relStoreW_params (s : State) (a : Agent) (x : Word32) : (s.relStoreW a x).params = s.params := rfl
@[simp] theorem relStoreW_slots (s : State) (a : Agent) (x : Word32) : (s.relStoreW a x).slots = s.slots := rfl
@[simp] theorem relStoreW_last (s : State) (a : Agent) (x : Word32) : (s.relStoreW a x).last = s.last := rfl
@[simp] theorem relStoreW_idleCnt (s : State) (a : Agent) (x : Word32) : (s.relStoreW a x).idleCnt = s.idleCnt := rfl
@[simp] theorem relStoreW_pw (s : State) (a : Agent) (x : Word32) : (s.relStoreW a x).pw = s.pw := rfl
@[simp] theorem relStoreW_active (s : State) (a : Agent) (x : Word32) : (s.relStoreW a x).active = s.active := rfl
@[simp] theorem relStoreW_code (s : State) (a : Agent) (x : Word32) : (s.relStoreW a x).code = s.code := rfl
@[simp] theorem relStoreW_data (s : State) (a : Agent) (x : Word32) : (s.relStoreW a x).data = s.data := rfl
@[simp] theorem relStoreW_count (s : State) (a : Agent) (x : Word32) : (s.relStoreW a x).count = s.count := rfl
@[simp] theorem relStoreW_ctxs (s : State) (a : Agent) (x : Word32) : (s.relStoreW a x).ctxs = s.ctxs := rfl
@[simp] theorem relStoreW_fsm (s : State) (a : Agent) (x : Word32) : (s.relStoreW a x).fsm = s.fsm := rfl
@[simp] theorem relStoreW_outLatch (s : State) (a : Agent) (x : Word32) : (s.relStoreW a x).outLatch = s.outLatch := rfl
@[simp] theorem relStoreW_inboxes (s : State) (a : Agent) (x : Word32) : (s.relStoreW a x).inboxes = s.inboxes := rfl
@[simp] theorem relStoreW_turns (s : State) (a : Agent) (x : Word32) : (s.relStoreW a x).turns = s.turns := rfl
@[simp] theorem relStoreW_turn (s : State) (a : Agent) (x : Word32) : (s.relStoreW a x).turn = s.turn := rfl
@[simp] theorem relStoreW_draws (s : State) (a : Agent) (x : Word32) : (s.relStoreW a x).draws = s.draws := rfl

/-! ### `acqLoadActive_state` leaves every other field alone -/

@[simp] theorem acqLoadActive_state_params (s : State) (a : Agent) : ((s.acqLoadActive a).2).params = s.params := rfl
@[simp] theorem acqLoadActive_state_w (s : State) (a : Agent) : ((s.acqLoadActive a).2).w = s.w := rfl
@[simp] theorem acqLoadActive_state_slots (s : State) (a : Agent) : ((s.acqLoadActive a).2).slots = s.slots := rfl
@[simp] theorem acqLoadActive_state_last (s : State) (a : Agent) : ((s.acqLoadActive a).2).last = s.last := rfl
@[simp] theorem acqLoadActive_state_idleCnt (s : State) (a : Agent) : ((s.acqLoadActive a).2).idleCnt = s.idleCnt := rfl
@[simp] theorem acqLoadActive_state_pw (s : State) (a : Agent) : ((s.acqLoadActive a).2).pw = s.pw := rfl
@[simp] theorem acqLoadActive_state_active (s : State) (a : Agent) : ((s.acqLoadActive a).2).active = s.active := rfl
@[simp] theorem acqLoadActive_state_code (s : State) (a : Agent) : ((s.acqLoadActive a).2).code = s.code := rfl
@[simp] theorem acqLoadActive_state_data (s : State) (a : Agent) : ((s.acqLoadActive a).2).data = s.data := rfl
@[simp] theorem acqLoadActive_state_count (s : State) (a : Agent) : ((s.acqLoadActive a).2).count = s.count := rfl
@[simp] theorem acqLoadActive_state_ctxs (s : State) (a : Agent) : ((s.acqLoadActive a).2).ctxs = s.ctxs := rfl
@[simp] theorem acqLoadActive_state_fsm (s : State) (a : Agent) : ((s.acqLoadActive a).2).fsm = s.fsm := rfl
@[simp] theorem acqLoadActive_state_outLatch (s : State) (a : Agent) : ((s.acqLoadActive a).2).outLatch = s.outLatch := rfl
@[simp] theorem acqLoadActive_state_inboxes (s : State) (a : Agent) : ((s.acqLoadActive a).2).inboxes = s.inboxes := rfl
@[simp] theorem acqLoadActive_state_turns (s : State) (a : Agent) : ((s.acqLoadActive a).2).turns = s.turns := rfl
@[simp] theorem acqLoadActive_state_draws (s : State) (a : Agent) : ((s.acqLoadActive a).2).draws = s.draws := rfl

/-! ### `relStoreActive` leaves every other field alone -/

@[simp] theorem relStoreActive_params (s : State) (a : Agent) (b : Bool) : (s.relStoreActive a b).params = s.params := rfl
@[simp] theorem relStoreActive_w (s : State) (a : Agent) (b : Bool) : (s.relStoreActive a b).w = s.w := rfl
@[simp] theorem relStoreActive_slots (s : State) (a : Agent) (b : Bool) : (s.relStoreActive a b).slots = s.slots := rfl
@[simp] theorem relStoreActive_last (s : State) (a : Agent) (b : Bool) : (s.relStoreActive a b).last = s.last := rfl
@[simp] theorem relStoreActive_idleCnt (s : State) (a : Agent) (b : Bool) : (s.relStoreActive a b).idleCnt = s.idleCnt := rfl
@[simp] theorem relStoreActive_pw (s : State) (a : Agent) (b : Bool) : (s.relStoreActive a b).pw = s.pw := rfl
@[simp] theorem relStoreActive_code (s : State) (a : Agent) (b : Bool) : (s.relStoreActive a b).code = s.code := rfl
@[simp] theorem relStoreActive_data (s : State) (a : Agent) (b : Bool) : (s.relStoreActive a b).data = s.data := rfl
@[simp] theorem relStoreActive_count (s : State) (a : Agent) (b : Bool) : (s.relStoreActive a b).count = s.count := rfl
@[simp] theorem relStoreActive_ctxs (s : State) (a : Agent) (b : Bool) : (s.relStoreActive a b).ctxs = s.ctxs := rfl
@[simp] theorem relStoreActive_fsm (s : State) (a : Agent) (b : Bool) : (s.relStoreActive a b).fsm = s.fsm := rfl
@[simp] theorem relStoreActive_outLatch (s : State) (a : Agent) (b : Bool) : (s.relStoreActive a b).outLatch = s.outLatch := rfl
@[simp] theorem relStoreActive_inboxes (s : State) (a : Agent) (b : Bool) : (s.relStoreActive a b).inboxes = s.inboxes := rfl
@[simp] theorem relStoreActive_turns (s : State) (a : Agent) (b : Bool) : (s.relStoreActive a b).turns = s.turns := rfl
@[simp] theorem relStoreActive_turn (s : State) (a : Agent) (b : Bool) : (s.relStoreActive a b).turn = s.turn := rfl
@[simp] theorem relStoreActive_draws (s : State) (a : Agent) (b : Bool) : (s.relStoreActive a b).draws = s.draws := rfl

/-! ### `rlxLoadCode_state` leaves every other field alone -/

@[simp] theorem rlxLoadCode_state_params (s : State) (a : Agent) : ((s.rlxLoadCode a).2).params = s.params := rfl
@[simp] theorem rlxLoadCode_state_w (s : State) (a : Agent) : ((s.rlxLoadCode a).2).w = s.w := rfl
@[simp] theorem rlxLoadCode_state_slots (s : State) (a : Agent) : ((s.rlxLoadCode a).2).slots = s.slots := rfl
@[simp] theorem rlxLoadCode_state_last (s : State) (a : Agent) : ((s.rlxLoadCode a).2).last = s.last := rfl
@[simp] theorem rlxLoadCode_state_idleCnt (s : State) (a : Agent) : ((s.rlxLoadCode a).2).idleCnt = s.idleCnt := rfl
@[simp] theorem rlxLoadCode_state_pw (s : State) (a : Agent) : ((s.rlxLoadCode a).2).pw = s.pw := rfl
@[simp] theorem rlxLoadCode_state_active (s : State) (a : Agent) : ((s.rlxLoadCode a).2).active = s.active := rfl
@[simp] theorem rlxLoadCode_state_code (s : State) (a : Agent) : ((s.rlxLoadCode a).2).code = s.code := rfl
@[simp] theorem rlxLoadCode_state_data (s : State) (a : Agent) : ((s.rlxLoadCode a).2).data = s.data := rfl
@[simp] theorem rlxLoadCode_state_count (s : State) (a : Agent) : ((s.rlxLoadCode a).2).count = s.count := rfl
@[simp] theorem rlxLoadCode_state_ctxs (s : State) (a : Agent) : ((s.rlxLoadCode a).2).ctxs = s.ctxs := rfl
@[simp] theorem rlxLoadCode_state_fsm (s : State) (a : Agent) : ((s.rlxLoadCode a).2).fsm = s.fsm := rfl
@[simp] theorem rlxLoadCode_state_outLatch (s : State) (a : Agent) : ((s.rlxLoadCode a).2).outLatch = s.outLatch := rfl
@[simp] theorem rlxLoadCode_state_inboxes (s : State) (a : Agent) : ((s.rlxLoadCode a).2).inboxes = s.inboxes := rfl
@[simp] theorem rlxLoadCode_state_turns (s : State) (a : Agent) : ((s.rlxLoadCode a).2).turns = s.turns := rfl
@[simp] theorem rlxLoadCode_state_draws (s : State) (a : Agent) : ((s.rlxLoadCode a).2).draws = s.draws := rfl

/-! ### `rlxStoreCode` leaves every other field alone -/

@[simp] theorem rlxStoreCode_params (s : State) (a : Agent) (c : BitVec 8) : (s.rlxStoreCode a c).params = s.params := rfl
@[simp] theorem rlxStoreCode_w (s : State) (a : Agent) (c : BitVec 8) : (s.rlxStoreCode a c).w = s.w := rfl
@[simp] theorem rlxStoreCode_slots (s : State) (a : Agent) (c : BitVec 8) : (s.rlxStoreCode a c).slots = s.slots := rfl
@[simp] theorem rlxStoreCode_last (s : State) (a : Agent) (c : BitVec 8) : (s.rlxStoreCode a c).last = s.last := rfl
@[simp] theorem rlxStoreCode_idleCnt (s : State) (a : Agent) (c : BitVec 8) : (s.rlxStoreCode a c).idleCnt = s.idleCnt := rfl
@[simp] theorem rlxStoreCode_pw (s : State) (a : Agent) (c : BitVec 8) : (s.rlxStoreCode a c).pw = s.pw := rfl
@[simp] theorem rlxStoreCode_active (s : State) (a : Agent) (c : BitVec 8) : (s.rlxStoreCode a c).active = s.active := rfl
@[simp] theorem rlxStoreCode_data (s : State) (a : Agent) (c : BitVec 8) : (s.rlxStoreCode a c).data = s.data := rfl
@[simp] theorem rlxStoreCode_count (s : State) (a : Agent) (c : BitVec 8) : (s.rlxStoreCode a c).count = s.count := rfl
@[simp] theorem rlxStoreCode_ctxs (s : State) (a : Agent) (c : BitVec 8) : (s.rlxStoreCode a c).ctxs = s.ctxs := rfl
@[simp] theorem rlxStoreCode_fsm (s : State) (a : Agent) (c : BitVec 8) : (s.rlxStoreCode a c).fsm = s.fsm := rfl
@[simp] theorem rlxStoreCode_outLatch (s : State) (a : Agent) (c : BitVec 8) : (s.rlxStoreCode a c).outLatch = s.outLatch := rfl
@[simp] theorem rlxStoreCode_inboxes (s : State) (a : Agent) (c : BitVec 8) : (s.rlxStoreCode a c).inboxes = s.inboxes := rfl
@[simp] theorem rlxStoreCode_turns (s : State) (a : Agent) (c : BitVec 8) : (s.rlxStoreCode a c).turns = s.turns := rfl
@[simp] theorem rlxStoreCode_turn (s : State) (a : Agent) (c : BitVec 8) : (s.rlxStoreCode a c).turn = s.turn := rfl
@[simp] theorem rlxStoreCode_draws (s : State) (a : Agent) (c : BitVec 8) : (s.rlxStoreCode a c).draws = s.draws := rfl

/-! ### `rlxLoadData_state` leaves every other field alone -/

@[simp] theorem rlxLoadData_state_params (s : State) (a : Agent) : ((s.rlxLoadData a).2).params = s.params := rfl
@[simp] theorem rlxLoadData_state_w (s : State) (a : Agent) : ((s.rlxLoadData a).2).w = s.w := rfl
@[simp] theorem rlxLoadData_state_slots (s : State) (a : Agent) : ((s.rlxLoadData a).2).slots = s.slots := rfl
@[simp] theorem rlxLoadData_state_last (s : State) (a : Agent) : ((s.rlxLoadData a).2).last = s.last := rfl
@[simp] theorem rlxLoadData_state_idleCnt (s : State) (a : Agent) : ((s.rlxLoadData a).2).idleCnt = s.idleCnt := rfl
@[simp] theorem rlxLoadData_state_pw (s : State) (a : Agent) : ((s.rlxLoadData a).2).pw = s.pw := rfl
@[simp] theorem rlxLoadData_state_active (s : State) (a : Agent) : ((s.rlxLoadData a).2).active = s.active := rfl
@[simp] theorem rlxLoadData_state_code (s : State) (a : Agent) : ((s.rlxLoadData a).2).code = s.code := rfl
@[simp] theorem rlxLoadData_state_data (s : State) (a : Agent) : ((s.rlxLoadData a).2).data = s.data := rfl
@[simp] theorem rlxLoadData_state_count (s : State) (a : Agent) : ((s.rlxLoadData a).2).count = s.count := rfl
@[simp] theorem rlxLoadData_state_ctxs (s : State) (a : Agent) : ((s.rlxLoadData a).2).ctxs = s.ctxs := rfl
@[simp] theorem rlxLoadData_state_fsm (s : State) (a : Agent) : ((s.rlxLoadData a).2).fsm = s.fsm := rfl
@[simp] theorem rlxLoadData_state_outLatch (s : State) (a : Agent) : ((s.rlxLoadData a).2).outLatch = s.outLatch := rfl
@[simp] theorem rlxLoadData_state_inboxes (s : State) (a : Agent) : ((s.rlxLoadData a).2).inboxes = s.inboxes := rfl
@[simp] theorem rlxLoadData_state_turns (s : State) (a : Agent) : ((s.rlxLoadData a).2).turns = s.turns := rfl
@[simp] theorem rlxLoadData_state_draws (s : State) (a : Agent) : ((s.rlxLoadData a).2).draws = s.draws := rfl

/-! ### `rlxStoreData` leaves every other field alone -/

@[simp] theorem rlxStoreData_params (s : State) (a : Agent) (d : Word32) : (s.rlxStoreData a d).params = s.params := rfl
@[simp] theorem rlxStoreData_w (s : State) (a : Agent) (d : Word32) : (s.rlxStoreData a d).w = s.w := rfl
@[simp] theorem rlxStoreData_slots (s : State) (a : Agent) (d : Word32) : (s.rlxStoreData a d).slots = s.slots := rfl
@[simp] theorem rlxStoreData_last (s : State) (a : Agent) (d : Word32) : (s.rlxStoreData a d).last = s.last := rfl
@[simp] theorem rlxStoreData_idleCnt (s : State) (a : Agent) (d : Word32) : (s.rlxStoreData a d).idleCnt = s.idleCnt := rfl
@[simp] theorem rlxStoreData_pw (s : State) (a : Agent) (d : Word32) : (s.rlxStoreData a d).pw = s.pw := rfl
@[simp] theorem rlxStoreData_active (s : State) (a : Agent) (d : Word32) : (s.rlxStoreData a d).active = s.active := rfl
@[simp] theorem rlxStoreData_code (s : State) (a : Agent) (d : Word32) : (s.rlxStoreData a d).code = s.code := rfl
@[simp] theorem rlxStoreData_count (s : State) (a : Agent) (d : Word32) : (s.rlxStoreData a d).count = s.count := rfl
@[simp] theorem rlxStoreData_ctxs (s : State) (a : Agent) (d : Word32) : (s.rlxStoreData a d).ctxs = s.ctxs := rfl
@[simp] theorem rlxStoreData_fsm (s : State) (a : Agent) (d : Word32) : (s.rlxStoreData a d).fsm = s.fsm := rfl
@[simp] theorem rlxStoreData_outLatch (s : State) (a : Agent) (d : Word32) : (s.rlxStoreData a d).outLatch = s.outLatch := rfl
@[simp] theorem rlxStoreData_inboxes (s : State) (a : Agent) (d : Word32) : (s.rlxStoreData a d).inboxes = s.inboxes := rfl
@[simp] theorem rlxStoreData_turns (s : State) (a : Agent) (d : Word32) : (s.rlxStoreData a d).turns = s.turns := rfl
@[simp] theorem rlxStoreData_turn (s : State) (a : Agent) (d : Word32) : (s.rlxStoreData a d).turn = s.turn := rfl
@[simp] theorem rlxStoreData_draws (s : State) (a : Agent) (d : Word32) : (s.rlxStoreData a d).draws = s.draws := rfl

/-! ### `rlxLoadCount_state` leaves every other field alone -/

@[simp] theorem rlxLoadCount_state_params (s : State) (a : Agent) : ((s.rlxLoadCount a).2).params = s.params := rfl
@[simp] theorem rlxLoadCount_state_w (s : State) (a : Agent) : ((s.rlxLoadCount a).2).w = s.w := rfl
@[simp] theorem rlxLoadCount_state_slots (s : State) (a : Agent) : ((s.rlxLoadCount a).2).slots = s.slots := rfl
@[simp] theorem rlxLoadCount_state_last (s : State) (a : Agent) : ((s.rlxLoadCount a).2).last = s.last := rfl
@[simp] theorem rlxLoadCount_state_idleCnt (s : State) (a : Agent) : ((s.rlxLoadCount a).2).idleCnt = s.idleCnt := rfl
@[simp] theorem rlxLoadCount_state_pw (s : State) (a : Agent) : ((s.rlxLoadCount a).2).pw = s.pw := rfl
@[simp] theorem rlxLoadCount_state_active (s : State) (a : Agent) : ((s.rlxLoadCount a).2).active = s.active := rfl
@[simp] theorem rlxLoadCount_state_code (s : State) (a : Agent) : ((s.rlxLoadCount a).2).code = s.code := rfl
@[simp] theorem rlxLoadCount_state_data (s : State) (a : Agent) : ((s.rlxLoadCount a).2).data = s.data := rfl
@[simp] theorem rlxLoadCount_state_count (s : State) (a : Agent) : ((s.rlxLoadCount a).2).count = s.count := rfl
@[simp] theorem rlxLoadCount_state_ctxs (s : State) (a : Agent) : ((s.rlxLoadCount a).2).ctxs = s.ctxs := rfl
@[simp] theorem rlxLoadCount_state_fsm (s : State) (a : Agent) : ((s.rlxLoadCount a).2).fsm = s.fsm := rfl
@[simp] theorem rlxLoadCount_state_outLatch (s : State) (a : Agent) : ((s.rlxLoadCount a).2).outLatch = s.outLatch := rfl
@[simp] theorem rlxLoadCount_state_inboxes (s : State) (a : Agent) : ((s.rlxLoadCount a).2).inboxes = s.inboxes := rfl
@[simp] theorem rlxLoadCount_state_turns (s : State) (a : Agent) : ((s.rlxLoadCount a).2).turns = s.turns := rfl
@[simp] theorem rlxLoadCount_state_draws (s : State) (a : Agent) : ((s.rlxLoadCount a).2).draws = s.draws := rfl

/-! ### `fetchAddCount` leaves every other field alone -/

@[simp] theorem fetchAddCount_params (s : State) (a : Agent) : (s.fetchAddCount a).params = s.params := rfl
@[simp] theorem fetchAddCount_w (s : State) (a : Agent) : (s.fetchAddCount a).w = s.w := rfl
@[simp] theorem fetchAddCount_slots (s : State) (a : Agent) : (s.fetchAddCount a).slots = s.slots := rfl
@[simp] theorem fetchAddCount_last (s : State) (a : Agent) : (s.fetchAddCount a).last = s.last := rfl
@[simp] theorem fetchAddCount_idleCnt (s : State) (a : Agent) : (s.fetchAddCount a).idleCnt = s.idleCnt := rfl
@[simp] theorem fetchAddCount_pw (s : State) (a : Agent) : (s.fetchAddCount a).pw = s.pw := rfl
@[simp] theorem fetchAddCount_active (s : State) (a : Agent) : (s.fetchAddCount a).active = s.active := rfl
@[simp] theorem fetchAddCount_code (s : State) (a : Agent) : (s.fetchAddCount a).code = s.code := rfl
@[simp] theorem fetchAddCount_data (s : State) (a : Agent) : (s.fetchAddCount a).data = s.data := rfl
@[simp] theorem fetchAddCount_ctxs (s : State) (a : Agent) : (s.fetchAddCount a).ctxs = s.ctxs := rfl
@[simp] theorem fetchAddCount_fsm (s : State) (a : Agent) : (s.fetchAddCount a).fsm = s.fsm := rfl
@[simp] theorem fetchAddCount_outLatch (s : State) (a : Agent) : (s.fetchAddCount a).outLatch = s.outLatch := rfl
@[simp] theorem fetchAddCount_inboxes (s : State) (a : Agent) : (s.fetchAddCount a).inboxes = s.inboxes := rfl
@[simp] theorem fetchAddCount_turns (s : State) (a : Agent) : (s.fetchAddCount a).turns = s.turns := rfl
@[simp] theorem fetchAddCount_turn (s : State) (a : Agent) : (s.fetchAddCount a).turn = s.turn := rfl
@[simp] theorem fetchAddCount_draws (s : State) (a : Agent) : (s.fetchAddCount a).draws = s.draws := rfl

/-! ### `countIdle` leaves every other field alone -/

@[simp] theorem countIdle_params (s : State) : (s.countIdle).params = s.params := rfl
@[simp] theorem countIdle_w (s : State) : (s.countIdle).w = s.w := rfl
@[simp] theorem countIdle_slots (s : State) : (s.countIdle).slots = s.slots := rfl
@[simp] theorem countIdle_last (s : State) : (s.countIdle).last = s.last := rfl
@[simp] theorem countIdle_pw (s : State) : (s.countIdle).pw = s.pw := rfl
@[simp] theorem countIdle_active (s : State) : (s.countIdle).active = s.active := rfl
@[simp] theorem countIdle_code (s : State) : (s.countIdle).code = s.code := rfl
@[simp] theorem countIdle_data (s : State) : (s.countIdle).data = s.data := rfl
@[simp] theorem countIdle_count (s : State) : (s.countIdle).count = s.count := rfl
@[simp] theorem countIdle_ctxs (s : State) : (s.countIdle).ctxs = s.ctxs := rfl
@[simp] theorem countIdle_fsm (s : State) : (s.countIdle).fsm = s.fsm := rfl
@[simp] theorem countIdle_outLatch (s : State) : (s.countIdle).outLatch = s.outLatch := rfl
@[simp] theorem countIdle_ports (s : State) : (s.countIdle).ports = s.ports := rfl
@[simp] theorem countIdle_inboxes (s : State) : (s.countIdle).inboxes = s.inboxes := rfl
@[simp] theorem countIdle_turns (s : State) : (s.countIdle).turns = s.turns := rfl
@[simp] theorem countIdle_turn (s : State) : (s.countIdle).turn = s.turn := rfl
@[simp] theorem countIdle_draws (s : State) : (s.countIdle).draws = s.draws := rfl

/-! ### `zeroStream` leaves every other field alone -/

@[simp] theorem zeroStream_params (s : State) : (s.zeroStream).params = s.params := rfl
@[simp] theorem zeroStream_w (s : State) : (s.zeroStream).w = s.w := rfl
@[simp] theorem zeroStream_active (s : State) : (s.zeroStream).active = s.active := rfl
@[simp] theorem zeroStream_code (s : State) : (s.zeroStream).code = s.code := rfl
@[simp] theorem zeroStream_data (s : State) : (s.zeroStream).data = s.data := rfl
@[simp] theorem zeroStream_count (s : State) : (s.zeroStream).count = s.count := rfl
@[simp] theorem zeroStream_ctxs (s : State) : (s.zeroStream).ctxs = s.ctxs := rfl
@[simp] theorem zeroStream_fsm (s : State) : (s.zeroStream).fsm = s.fsm := rfl
@[simp] theorem zeroStream_outLatch (s : State) : (s.zeroStream).outLatch = s.outLatch := rfl
@[simp] theorem zeroStream_ports (s : State) : (s.zeroStream).ports = s.ports := rfl
@[simp] theorem zeroStream_inboxes (s : State) : (s.zeroStream).inboxes = s.inboxes := rfl
@[simp] theorem zeroStream_turns (s : State) : (s.zeroStream).turns = s.turns := rfl
@[simp] theorem zeroStream_turn (s : State) : (s.zeroStream).turn = s.turn := rfl
@[simp] theorem zeroStream_draws (s : State) : (s.zeroStream).draws = s.draws := rfl

/-! ### `markOverlapped` leaves every other field alone -/

@[simp] theorem markOverlapped_params (s : State) : (s.markOverlapped).params = s.params := rfl
@[simp] theorem markOverlapped_w (s : State) : (s.markOverlapped).w = s.w := rfl
@[simp] theorem markOverlapped_slots (s : State) : (s.markOverlapped).slots = s.slots := rfl
@[simp] theorem markOverlapped_last (s : State) : (s.markOverlapped).last = s.last := rfl
@[simp] theorem markOverlapped_idleCnt (s : State) : (s.markOverlapped).idleCnt = s.idleCnt := rfl
@[simp] theorem markOverlapped_pw (s : State) : (s.markOverlapped).pw = s.pw := rfl
@[simp] theorem markOverlapped_active (s : State) : (s.markOverlapped).active = s.active := rfl
@[simp] theorem markOverlapped_code (s : State) : (s.markOverlapped).code = s.code := rfl
@[simp] theorem markOverlapped_data (s : State) : (s.markOverlapped).data = s.data := rfl
@[simp] theorem markOverlapped_count (s : State) : (s.markOverlapped).count = s.count := rfl
@[simp] theorem markOverlapped_ctxs (s : State) : (s.markOverlapped).ctxs = s.ctxs := rfl
@[simp] theorem markOverlapped_fsm (s : State) : (s.markOverlapped).fsm = s.fsm := rfl
@[simp] theorem markOverlapped_outLatch (s : State) : (s.markOverlapped).outLatch = s.outLatch := rfl
@[simp] theorem markOverlapped_inboxes (s : State) : (s.markOverlapped).inboxes = s.inboxes := rfl
@[simp] theorem markOverlapped_turns (s : State) : (s.markOverlapped).turns = s.turns := rfl
@[simp] theorem markOverlapped_turn (s : State) : (s.markOverlapped).turn = s.turn := rfl
@[simp] theorem markOverlapped_draws (s : State) : (s.markOverlapped).draws = s.draws := rfl

/-! ### `slotWriteBegin` leaves every other field alone -/

@[simp] theorem slotWriteBegin_params (s : State) : (s.slotWriteBegin).params = s.params := rfl
@[simp] theorem slotWriteBegin_w (s : State) : (s.slotWriteBegin).w = s.w := rfl
@[simp] theorem slotWriteBegin_slots (s : State) : (s.slotWriteBegin).slots = s.slots := rfl
@[simp] theorem slotWriteBegin_last (s : State) : (s.slotWriteBegin).last = s.last := rfl
@[simp] theorem slotWriteBegin_idleCnt (s : State) : (s.slotWriteBegin).idleCnt = s.idleCnt := rfl
@[simp] theorem slotWriteBegin_active (s : State) : (s.slotWriteBegin).active = s.active := rfl
@[simp] theorem slotWriteBegin_code (s : State) : (s.slotWriteBegin).code = s.code := rfl
@[simp] theorem slotWriteBegin_data (s : State) : (s.slotWriteBegin).data = s.data := rfl
@[simp] theorem slotWriteBegin_count (s : State) : (s.slotWriteBegin).count = s.count := rfl
@[simp] theorem slotWriteBegin_ctxs (s : State) : (s.slotWriteBegin).ctxs = s.ctxs := rfl
@[simp] theorem slotWriteBegin_fsm (s : State) : (s.slotWriteBegin).fsm = s.fsm := rfl
@[simp] theorem slotWriteBegin_outLatch (s : State) : (s.slotWriteBegin).outLatch = s.outLatch := rfl
@[simp] theorem slotWriteBegin_ports (s : State) : (s.slotWriteBegin).ports = s.ports := rfl
@[simp] theorem slotWriteBegin_inboxes (s : State) : (s.slotWriteBegin).inboxes = s.inboxes := rfl
@[simp] theorem slotWriteBegin_turns (s : State) : (s.slotWriteBegin).turns = s.turns := rfl
@[simp] theorem slotWriteBegin_turn (s : State) : (s.slotWriteBegin).turn = s.turn := rfl
@[simp] theorem slotWriteBegin_draws (s : State) : (s.slotWriteBegin).draws = s.draws := rfl

/-! ### `slotWriteEnd` leaves every other field alone -/

@[simp] theorem slotWriteEnd_params (s : State) (v : Sample) : (s.slotWriteEnd v).params = s.params := rfl
@[simp] theorem slotWriteEnd_w (s : State) (v : Sample) : (s.slotWriteEnd v).w = s.w := rfl
@[simp] theorem slotWriteEnd_last (s : State) (v : Sample) : (s.slotWriteEnd v).last = s.last := rfl
@[simp] theorem slotWriteEnd_idleCnt (s : State) (v : Sample) : (s.slotWriteEnd v).idleCnt = s.idleCnt := rfl
@[simp] theorem slotWriteEnd_pw (s : State) (v : Sample) : (s.slotWriteEnd v).pw = s.pw := rfl
@[simp] theorem slotWriteEnd_active (s : State) (v : Sample) : (s.slotWriteEnd v).active = s.active := rfl
@[simp] theorem slotWriteEnd_code (s : State) (v : Sample) : (s.slotWriteEnd v).code = s.code := rfl
@[simp] theorem slotWriteEnd_data (s : State) (v : Sample) : (s.slotWriteEnd v).data = s.data := rfl
@[simp] theorem slotWriteEnd_count (s : State) (v : Sample) : (s.slotWriteEnd v).count = s.count := rfl
@[simp] theorem slotWriteEnd_ctxs (s : State) (v : Sample) : (s.slotWriteEnd v).ctxs = s.ctxs := rfl
@[simp] theorem slotWriteEnd_fsm (s : State) (v : Sample) : (s.slotWriteEnd v).fsm = s.fsm := rfl
@[simp] theorem slotWriteEnd_outLatch (s : State) (v : Sample) : (s.slotWriteEnd v).outLatch = s.outLatch := rfl
@[simp] theorem slotWriteEnd_ports (s : State) (v : Sample) : (s.slotWriteEnd v).ports = s.ports := rfl
@[simp] theorem slotWriteEnd_inboxes (s : State) (v : Sample) : (s.slotWriteEnd v).inboxes = s.inboxes := rfl
@[simp] theorem slotWriteEnd_turns (s : State) (v : Sample) : (s.slotWriteEnd v).turns = s.turns := rfl
@[simp] theorem slotWriteEnd_turn (s : State) (v : Sample) : (s.slotWriteEnd v).turn = s.turn := rfl
@[simp] theorem slotWriteEnd_draws (s : State) (v : Sample) : (s.slotWriteEnd v).draws = s.draws := rfl

/-! ### `publish` leaves every other field alone -/

@[simp] theorem publish_params (s : State) (a : Agent) : (s.publish a).params = s.params := rfl
@[simp] theorem publish_slots (s : State) (a : Agent) : (s.publish a).slots = s.slots := rfl
@[simp] theorem publish_last (s : State) (a : Agent) : (s.publish a).last = s.last := rfl
@[simp] theorem publish_idleCnt (s : State) (a : Agent) : (s.publish a).idleCnt = s.idleCnt := rfl
@[simp] theorem publish_pw (s : State) (a : Agent) : (s.publish a).pw = s.pw := rfl
@[simp] theorem publish_active (s : State) (a : Agent) : (s.publish a).active = s.active := rfl
@[simp] theorem publish_code (s : State) (a : Agent) : (s.publish a).code = s.code := rfl
@[simp] theorem publish_data (s : State) (a : Agent) : (s.publish a).data = s.data := rfl
@[simp] theorem publish_count (s : State) (a : Agent) : (s.publish a).count = s.count := rfl
@[simp] theorem publish_ctxs (s : State) (a : Agent) : (s.publish a).ctxs = s.ctxs := rfl
@[simp] theorem publish_fsm (s : State) (a : Agent) : (s.publish a).fsm = s.fsm := rfl
@[simp] theorem publish_outLatch (s : State) (a : Agent) : (s.publish a).outLatch = s.outLatch := rfl
@[simp] theorem publish_inboxes (s : State) (a : Agent) : (s.publish a).inboxes = s.inboxes := rfl
@[simp] theorem publish_turns (s : State) (a : Agent) : (s.publish a).turns = s.turns := rfl
@[simp] theorem publish_turn (s : State) (a : Agent) : (s.publish a).turn = s.turn := rfl
@[simp] theorem publish_draws (s : State) (a : Agent) : (s.publish a).draws = s.draws := rfl

/-! ### `respond` leaves every other field alone -/

@[simp] theorem respond_params (s : State) (a : Agent) (r : Response) : (s.respond a r).params = s.params := rfl
@[simp] theorem respond_w (s : State) (a : Agent) (r : Response) : (s.respond a r).w = s.w := rfl
@[simp] theorem respond_slots (s : State) (a : Agent) (r : Response) : (s.respond a r).slots = s.slots := rfl
@[simp] theorem respond_last (s : State) (a : Agent) (r : Response) : (s.respond a r).last = s.last := rfl
@[simp] theorem respond_idleCnt (s : State) (a : Agent) (r : Response) : (s.respond a r).idleCnt = s.idleCnt := rfl
@[simp] theorem respond_pw (s : State) (a : Agent) (r : Response) : (s.respond a r).pw = s.pw := rfl
@[simp] theorem respond_active (s : State) (a : Agent) (r : Response) : (s.respond a r).active = s.active := rfl
@[simp] theorem respond_code (s : State) (a : Agent) (r : Response) : (s.respond a r).code = s.code := rfl
@[simp] theorem respond_data (s : State) (a : Agent) (r : Response) : (s.respond a r).data = s.data := rfl
@[simp] theorem respond_count (s : State) (a : Agent) (r : Response) : (s.respond a r).count = s.count := rfl
@[simp] theorem respond_ctxs (s : State) (a : Agent) (r : Response) : (s.respond a r).ctxs = s.ctxs := rfl
@[simp] theorem respond_fsm (s : State) (a : Agent) (r : Response) : (s.respond a r).fsm = s.fsm := rfl
@[simp] theorem respond_outLatch (s : State) (a : Agent) (r : Response) : (s.respond a r).outLatch = s.outLatch := rfl
@[simp] theorem respond_inboxes (s : State) (a : Agent) (r : Response) : (s.respond a r).inboxes = s.inboxes := rfl
@[simp] theorem respond_turns (s : State) (a : Agent) (r : Response) : (s.respond a r).turns = s.turns := rfl
@[simp] theorem respond_turn (s : State) (a : Agent) (r : Response) : (s.respond a r).turn = s.turn := rfl
@[simp] theorem respond_draws (s : State) (a : Agent) (r : Response) : (s.respond a r).draws = s.draws := rfl

/-! ### `finish` leaves every other field alone -/

@[simp] theorem finish_params (s : State) (a : Agent) (th : Thread) : (s.finish a th).params = s.params := rfl
@[simp] theorem finish_w (s : State) (a : Agent) (th : Thread) : (s.finish a th).w = s.w := rfl
@[simp] theorem finish_slots (s : State) (a : Agent) (th : Thread) : (s.finish a th).slots = s.slots := rfl
@[simp] theorem finish_last (s : State) (a : Agent) (th : Thread) : (s.finish a th).last = s.last := rfl
@[simp] theorem finish_idleCnt (s : State) (a : Agent) (th : Thread) : (s.finish a th).idleCnt = s.idleCnt := rfl
@[simp] theorem finish_pw (s : State) (a : Agent) (th : Thread) : (s.finish a th).pw = s.pw := rfl
@[simp] theorem finish_active (s : State) (a : Agent) (th : Thread) : (s.finish a th).active = s.active := rfl
@[simp] theorem finish_code (s : State) (a : Agent) (th : Thread) : (s.finish a th).code = s.code := rfl
@[simp] theorem finish_data (s : State) (a : Agent) (th : Thread) : (s.finish a th).data = s.data := rfl
@[simp] theorem finish_count (s : State) (a : Agent) (th : Thread) : (s.finish a th).count = s.count := rfl
@[simp] theorem finish_ctxs (s : State) (a : Agent) (th : Thread) : (s.finish a th).ctxs = s.ctxs := rfl
@[simp] theorem finish_fsm (s : State) (a : Agent) (th : Thread) : (s.finish a th).fsm = s.fsm := rfl
@[simp] theorem finish_outLatch (s : State) (a : Agent) (th : Thread) : (s.finish a th).outLatch = s.outLatch := rfl
@[simp] theorem finish_inboxes (s : State) (a : Agent) (th : Thread) : (s.finish a th).inboxes = s.inboxes := rfl
@[simp] theorem finish_turns (s : State) (a : Agent) (th : Thread) : (s.finish a th).turns = s.turns := rfl
@[simp] theorem finish_turn (s : State) (a : Agent) (th : Thread) : (s.finish a th).turn = s.turn := rfl
@[simp] theorem finish_draws (s : State) (a : Agent) (th : Thread) : (s.finish a th).draws = s.draws := rfl

/-! ### `park` leaves every other field alone -/

@[simp] theorem park_params (s : State) (a : Agent) (th : Thread) : (s.park a th).params = s.params := rfl
@[simp] theorem park_w (s : State) (a : Agent) (th : Thread) : (s.park a th).w = s.w := rfl
@[simp] theorem park_slots (s : State) (a : Agent) (th : Thread) : (s.park a th).slots = s.slots := rfl
@[simp] theorem park_last (s : State) (a : Agent) (th : Thread) : (s.park a th).last = s.last := rfl
@[simp] theorem park_idleCnt (s : State) (a : Agent) (th : Thread) : (s.park a th).idleCnt = s.idleCnt := rfl
@[simp] theorem park_pw (s : State) (a : Agent) (th : Thread) : (s.park a th).pw = s.pw := rfl
@[simp] theorem park_active (s : State) (a : Agent) (th : Thread) : (s.park a th).active = s.active := rfl
@[simp] theorem park_code (s : State) (a : Agent) (th : Thread) : (s.park a th).code = s.code := rfl
@[simp] theorem park_data (s : State) (a : Agent) (th : Thread) : (s.park a th).data = s.data := rfl
@[simp] theorem park_count (s : State) (a : Agent) (th : Thread) : (s.park a th).count = s.count := rfl
@[simp] theorem park_ctxs (s : State) (a : Agent) (th : Thread) : (s.park a th).ctxs = s.ctxs := rfl
@[simp] theorem park_fsm (s : State) (a : Agent) (th : Thread) : (s.park a th).fsm = s.fsm := rfl
@[simp] theorem park_outLatch (s : State) (a : Agent) (th : Thread) : (s.park a th).outLatch = s.outLatch := rfl
@[simp] theorem park_inboxes (s : State) (a : Agent) (th : Thread) : (s.park a th).inboxes = s.inboxes := rfl
@[simp] theorem park_turns (s : State) (a : Agent) (th : Thread) : (s.park a th).turns = s.turns := rfl
@[simp] theorem park_turn (s : State) (a : Agent) (th : Thread) : (s.park a th).turn = s.turn := rfl
@[simp] theorem park_draws (s : State) (a : Agent) (th : Thread) : (s.park a th).draws = s.draws := rfl

/-! ### `serving` leaves every other field alone -/

@[simp] theorem serving_params (s : State) (sl : Slice) (rest : List Turn) : (s.serving sl rest).params = s.params := rfl
@[simp] theorem serving_w (s : State) (sl : Slice) (rest : List Turn) : (s.serving sl rest).w = s.w := rfl
@[simp] theorem serving_slots (s : State) (sl : Slice) (rest : List Turn) : (s.serving sl rest).slots = s.slots := rfl
@[simp] theorem serving_last (s : State) (sl : Slice) (rest : List Turn) : (s.serving sl rest).last = s.last := rfl
@[simp] theorem serving_idleCnt (s : State) (sl : Slice) (rest : List Turn) : (s.serving sl rest).idleCnt = s.idleCnt := rfl
@[simp] theorem serving_pw (s : State) (sl : Slice) (rest : List Turn) : (s.serving sl rest).pw = s.pw := rfl
@[simp] theorem serving_active (s : State) (sl : Slice) (rest : List Turn) : (s.serving sl rest).active = s.active := rfl
@[simp] theorem serving_code (s : State) (sl : Slice) (rest : List Turn) : (s.serving sl rest).code = s.code := rfl
@[simp] theorem serving_data (s : State) (sl : Slice) (rest : List Turn) : (s.serving sl rest).data = s.data := rfl
@[simp] theorem serving_count (s : State) (sl : Slice) (rest : List Turn) : (s.serving sl rest).count = s.count := rfl
@[simp] theorem serving_ctxs (s : State) (sl : Slice) (rest : List Turn) : (s.serving sl rest).ctxs = s.ctxs := rfl
@[simp] theorem serving_fsm (s : State) (sl : Slice) (rest : List Turn) : (s.serving sl rest).fsm = s.fsm := rfl
@[simp] theorem serving_outLatch (s : State) (sl : Slice) (rest : List Turn) : (s.serving sl rest).outLatch = s.outLatch := rfl
@[simp] theorem serving_ports (s : State) (sl : Slice) (rest : List Turn) : (s.serving sl rest).ports = s.ports := rfl
@[simp] theorem serving_inboxes (s : State) (sl : Slice) (rest : List Turn) : (s.serving sl rest).inboxes = s.inboxes := rfl
@[simp] theorem serving_draws (s : State) (sl : Slice) (rest : List Turn) : (s.serving sl rest).draws = s.draws := rfl

end Sys2Proof.Machine.State
end

