-- ==== Sys2Proof/Laws/Storage.lean ====
section
/-!
SUPPORT. Reads after writes for ports, contexts, queues, slots and the shared locations, and what the loads and stores do to the
locations and views they touch.
-/

namespace Sys2Proof.Machine

theorem agentIndex_injective {a b : Agent} (h : a.index = b.index) : a = b := by
  cases a <;> cases b <;> simp only [Agent.index] at h
  · rfl
  · omega
  · omega
  · omega
  · rename_i m n; exact congrArg Agent.reader (Fin.ext (by omega))
  · rename_i m; have := m.isLt; omega
  · omega
  · rename_i m; have := m.isLt; omega
  · rfl

namespace State

/-! ### Ports -/

@[simp] theorem port_setPort_same (s : State) (a : Agent) (p : Port) : (s.setPort a p).port a = p := by
  simp [State.port, State.setPort]

theorem port_setPort_other (s : State) {a b : Agent} (p : Port) (h : b ≠ a) : (s.setPort a p).port b = s.port b := by
  have hi : b.index ≠ a.index := fun e => h (agentIndex_injective e)
  simp [State.port, State.setPort, sparseGet_put, hi]

@[simp] theorem setPort_setPort (s : State) (a : Agent) (p q : Port) : (s.setPort a p).setPort a q = s.setPort a q := by
  simp [State.setPort]

/-- A port is read from the ports alone. -/
theorem port_congr {s t : State} (h : s.ports = t.ports) (a : Agent) : s.port a = t.port a := by
  simp [State.port, h]

@[simp] theorem port_setView_same (s : State) (a : Agent) (v : View) :
    (s.setView a v).port a = { s.port a with view := v } := by simp [State.setView]

theorem port_setView_other (s : State) {a b : Agent} (v : View) (h : b ≠ a) : (s.setView a v).port b = s.port b :=
  port_setPort_other s _ h

@[simp] theorem view_setView (s : State) (a : Agent) (v : View) : (s.setView a v).view a = v := by simp [State.view]

@[simp] theorem setView_setView (s : State) (a : Agent) (v u : View) : (s.setView a v).setView a u = s.setView a u := by
  simp [State.setView]

@[simp] theorem loaded_setView (s : State) (a : Agent) (v : View) : (s.setView a v).loaded a = s.loaded a := by
  simp [State.loaded]

@[simp] theorem port_setLoaded_same (s : State) (a : Agent) (l : Loaded) :
    (s.setLoaded a l).port a = { s.port a with loaded := l } := by simp [State.setLoaded]

theorem port_setLoaded_other (s : State) {a b : Agent} (l : Loaded) (h : b ≠ a) : (s.setLoaded a l).port b = s.port b :=
  port_setPort_other s _ h

@[simp] theorem loaded_setLoaded (s : State) (a : Agent) (l : Loaded) : (s.setLoaded a l).loaded a = l := by simp [State.loaded]

/-- What an agent has loaded is in no view. -/
@[simp] theorem view_setLoaded (s : State) (a b : Agent) (l : Loaded) : (s.setLoaded a l).view b = s.view b := by
  by_cases h : b = a
  · subst h; simp [State.view]
  · simp [State.view, port_setLoaded_other s l h]

@[simp] theorem port_respond_same (s : State) (a : Agent) (r : Response) :
    (s.respond a r).port a = { s.port a with thread := none, response := some r } := by simp [State.respond]

theorem port_respond_other (s : State) {a b : Agent} (r : Response) (h : b ≠ a) : (s.respond a r).port b = s.port b :=
  port_setPort_other s _ h

@[simp] theorem port_finish_same (s : State) (a : Agent) (th : Thread) :
    (s.finish a th).port a =
      { s.port a with thread := none, response := some { status := .ok, kind := th.kind, v := th.value } } := by
  simp [State.finish]

theorem port_finish_other (s : State) {a b : Agent} (th : Thread) (h : b ≠ a) : (s.finish a th).port b = s.port b :=
  port_setPort_other s _ h

@[simp] theorem port_park_same (s : State) (a : Agent) (th : Thread) :
    (s.park a th).port a = { s.port a with thread := some th } := by simp [State.park]

theorem port_park_other (s : State) {a b : Agent} (th : Thread) (h : b ≠ a) : (s.park a th).port b = s.port b :=
  port_setPort_other s _ h

/-- A port is an idle one or a listed one. -/
theorem port_idle_or_listed (s : State) (a : Agent) : s.port a = Port.idle ∨ ∃ e ∈ s.ports, s.port a = e.2 :=
  sparseGet_default_or_mem _ _

/-! ### Queues -/

@[simp] theorem inbox_setInbox_same (s : State) (a : Agent) (cs : List Command) : (s.setInbox a cs).inbox a = cs := by
  simp [State.inbox, State.setInbox]

theorem inbox_setInbox_other (s : State) {a b : Agent} (cs : List Command) (h : b ≠ a) :
    (s.setInbox a cs).inbox b = s.inbox b := by
  have hi : b.index ≠ a.index := fun e => h (agentIndex_injective e)
  simp [State.inbox, State.setInbox, sparseGet_put, hi]

/-! ### Contexts -/

@[simp] theorem ctx_setCtx_same (s : State) (k : CtxIdx) (c : Context) : (s.setCtx k c).ctx k = c := by
  simp [State.ctx, State.setCtx]

theorem ctx_setCtx_other (s : State) {k j : CtxIdx} (c : Context) (h : j ≠ k) : (s.setCtx k c).ctx j = s.ctx j := by
  have hi : j.toNat ≠ k.toNat := fun e => h (BitVec.eq_of_toNat_eq e)
  simp [State.ctx, State.setCtx, sparseGet_put, hi]

@[simp] theorem setCtx_setCtx (s : State) (k : CtxIdx) (c e : Context) : (s.setCtx k c).setCtx k e = s.setCtx k e := by
  simp [State.setCtx]

/-- A context is read from the context file alone. -/
theorem ctx_congr {s t : State} (h : s.ctxs = t.ctxs) (k : CtxIdx) : s.ctx k = t.ctx k := by simp [State.ctx, h]

/-! ### Slots -/

@[simp] theorem slot_setSlot_same (s : State) (n : Nat) (v : Sample) : (s.setSlot n v).slot n = v := by
  simp [State.slot, State.setSlot]

theorem slot_setSlot_other (s : State) {n m : Nat} (v : Sample) (h : m ≠ n) : (s.setSlot n v).slot m = s.slot m := by
  simp [State.slot, State.setSlot, sparseGet_put, h]

/-- A slot number depends on the parameters alone. -/
theorem slotOf_congr {s t : State} (h : s.params = t.params) (i : LogIdx) : s.slotOf i = t.slotOf i := by
  simp [State.slotOf, h]

/-! ### What each load gives -/

theorem acqLoadW_value (s : State) (a : Agent) :
    (s.acqLoadW a).1 = (s.w.atAge (s.loadAge (s.view a).w s.w.top)).1 := rfl

theorem acqLoadActive_value (s : State) (a : Agent) :
    (s.acqLoadActive a).1 = ((s.active.atAge (s.loadAge (s.view a).active s.active.top)).1 == 1#1) := rfl

theorem rlxLoadCode_value (s : State) (a : Agent) :
    (s.rlxLoadCode a).1 = (s.code.atAge (s.loadAge (s.seenCode a) s.code.top)).1 := rfl

theorem rlxLoadData_value (s : State) (a : Agent) :
    (s.rlxLoadData a).1 = (s.data.atAge (s.loadAge (s.seenData a) s.data.top)).1 := rfl

theorem rlxLoadCount_value (s : State) (a : Agent) :
    (s.rlxLoadCount a).1 = (s.count.atAge (s.loadAge (s.seenCount a) s.count.top)).1 := rfl

/-- An agent that has seen the latest value gets it, whatever age its load asks for. -/
theorem loadAge_of_current (s : State) {seen top : Nat} (h : top ≤ seen) : s.loadAge seen top = 0 := by
  simp [State.loadAge, Nat.sub_eq_zero_of_le h]

@[simp] theorem atAge_zero {n : Nat} (c : Cell n) : c.atAge 0 = (c.cur, c.rel) := rfl

theorem acqLoadW_of_current (s : State) (a : Agent) (h : s.w.top ≤ (s.view a).w) : (s.acqLoadW a).1 = s.w.cur := by
  simp [acqLoadW_value, loadAge_of_current s h]

theorem acqLoadActive_of_current (s : State) (a : Agent) (h : s.active.top ≤ (s.view a).active) :
    (s.acqLoadActive a).1 = (s.active.cur == 1#1) := by
  simp [acqLoadActive_value, loadAge_of_current s h]

theorem rlxLoadCode_of_current (s : State) (a : Agent) (h : s.code.top ≤ s.seenCode a) :
    (s.rlxLoadCode a).1 = s.code.cur := by
  simp [rlxLoadCode_value, loadAge_of_current s h]

theorem rlxLoadData_of_current (s : State) (a : Agent) (h : s.data.top ≤ s.seenData a) :
    (s.rlxLoadData a).1 = s.data.cur := by
  simp [rlxLoadData_value, loadAge_of_current s h]

theorem rlxLoadCount_of_current (s : State) (a : Agent) (h : s.count.top ≤ s.seenCount a) :
    (s.rlxLoadCount a).1 = s.count.cur := by
  simp [rlxLoadCount_value, loadAge_of_current s h]

end State

end Sys2Proof.Machine
end

