-- ==== Sys2Proof/Laws/Drive.lean ====
section
/-!
SUPPORT. How a command runs: one entry at a time, and to its end when its agent is not switched out. `opWeight` bounds what an
entry can still unfold to, so that the fuel of a slice is never what ends a command of the block.
-/

namespace Sys2Proof.Machine

/-! ### Budgets -/

@[simp] theorem State.dropAge_budget (s : State) : s.dropAge.turn.budget = s.turn.budget := rfl
@[simp] theorem State.acqLoadW_state_budget (s : State) (a : Agent) :
    (s.acqLoadW a).2.turn.budget = s.turn.budget := rfl
@[simp] theorem State.acqLoadActive_state_budget (s : State) (a : Agent) :
    (s.acqLoadActive a).2.turn.budget = s.turn.budget := rfl
@[simp] theorem State.rlxLoadCode_state_budget (s : State) (a : Agent) :
    (s.rlxLoadCode a).2.turn.budget = s.turn.budget := rfl
@[simp] theorem State.rlxLoadData_state_budget (s : State) (a : Agent) :
    (s.rlxLoadData a).2.turn.budget = s.turn.budget := rfl
@[simp] theorem State.rlxLoadCount_state_budget (s : State) (a : Agent) :
    (s.rlxLoadCount a).2.turn.budget = s.turn.budget := rfl

/-- With no limit, a micro-step uses up nothing of the slice. -/
theorem State.spend_of_unlimited (s : State) (h : s.turn.budget = none) : s.spend = s := by
  obtain ⟨⟩ := s
  simp_all [State.spend]
  cases ‹Slice›; simp_all

theorem State.takeLatch_turn (s : State) (k : Kind) (v : Word64) : (s.takeLatch k v).turn = s.turn := by
  unfold State.takeLatch; split <;> rfl

theorem State.copySlot_turn (s : State) (o : Bool) (i : LogIdx) : (s.copySlot o i).2.turn = s.turn := by
  unfold State.copySlot; split <;> rfl

theorem readSucceeded_turn (r : Reader) (v : Sample) (th : Thread) (s : State) :
    (readSucceeded r v th s).2.turn = s.turn := by cases r <;> rfl

theorem readFailed_turn (r : Reader) (b : Word32) (th : Thread) (s : State) :
    (readFailed r b th s).2.turn = s.turn := by
  cases r with
  | plain => rfl
  | hrt k => rfl
  | be k sk => cases sk <;> rfl

/-- No entry changes the micro-step budget of the slice. -/
theorem Op.perform_budget (op : Op) (a : Agent) (th : Thread) (s : State) :
    (op.perform a th s).2.turn.budget = s.turn.budget := by
  cases op <;> simp only [Op.perform, runReadLoad, runSlotCopy, runHrtInit, runHrtFlag, runHrtLag, runHrtOverrun,
    runHrtResync, runBeInit, runBeLag, runBeSkip, runBeAgain, runBeJump, runFaultCheck]
  case readLoad => split <;> simp [readFailed_turn]
  case slotCopy => simp [readSucceeded_turn, State.copySlot_turn]
  case latch => simp [State.takeLatch_turn]
  all_goals try split
  all_goals try split
  all_goals rfl

/-! ### One entry at a time -/

theorem drive_done (a : Agent) (n : Nat) (th : Thread) (s : State) (h : th.ops = []) :
    drive a (n + 1) th s = s.finish a th := by simp [drive, h]

theorem drive_silent (a : Agent) (n : Nat) (op : Op) (rest : List Op) (k : Kind) (v : Word64) (o : Bool) (s : State)
    (h : op.silent = true) :
    drive a (n + 1) { ops := op :: rest, kind := k, value := v, overlapped := o } s =
      drive a n (op.perform a { ops := rest, kind := k, value := v, overlapped := o } s).1
        (op.perform a { ops := rest, kind := k, value := v, overlapped := o } s).2 := by simp [drive, h]

/-- A micro-step of a command whose agent is not switched out. -/
theorem drive_micro (a : Agent) (n : Nat) (op : Op) (rest : List Op) (k : Kind) (v : Word64) (o : Bool) (s : State)
    (h : op.silent = false) (hb : s.turn.budget = none) :
    drive a (n + 1) { ops := op :: rest, kind := k, value := v, overlapped := o } s =
      drive a n (op.perform a { ops := rest, kind := k, value := v, overlapped := o } s).1
        (op.perform a { ops := rest, kind := k, value := v, overlapped := o } s).2 := by
  simp [drive, h, hb, State.spend_of_unlimited s hb]

/-- Either way, an entry of a command whose agent is not switched out is performed. -/
theorem drive_cons (a : Agent) (n : Nat) (op : Op) (rest : List Op) (th : Thread) (s : State) (ho : th.ops = op :: rest)
    (hb : s.turn.budget = none) :
    drive a (n + 1) th s =
      drive a n (op.perform a { th with ops := rest } s).1 (op.perform a { th with ops := rest } s).2 := by
  cases hs : op.silent
  · simp [drive, ho, hs, hb, State.spend_of_unlimited s hb]
  · simp [drive, ho, hs]

/-! ### How much a command can still unfold to -/

/-- At most how many entries this one performs, itself among them. -/
def opWeight : Op → Nat
  | .readLoad _ _ => 6
  | .hrtOverrun _ => 7
  | .hrtLag _ => 8
  | .hrtFlag _ => 9
  | .beAgain _ => 7
  | .beSkip _ => 8
  | .beLag _ => 9
  | .strmZero => 1
  | .strmPublish => 1
  | .slotWriteBegin => 1
  | .slotWriteEnd _ => 1
  | .publish => 1
  | .clearIdle => 1
  | .setLast _ => 1
  | .storeCode _ => 1
  | .storeData _ => 1
  | .countFault => 1
  | .storeActive _ => 1
  | .result _ _ => 1
  | .wpos => 1
  | .lag _ => 1
  | .overrun _ => 1
  | .slotCopy _ _ => 1
  | .hrtInit _ _ => 1
  | .hrtResync _ => 1
  | .beInit _ _ _ => 1
  | .beJump _ => 1
  | .fltActive => 1
  | .fltCode => 1
  | .fltData => 1
  | .fltCount => 1
  | .latch => 1
  | .faultCheck _ => 1

/-- The weight of what is left of a command. -/
def opsWeight (ops : List Op) : Nat := (ops.map opWeight).sum

@[simp] theorem opsWeight_nil : opsWeight [] = 0 := rfl
@[simp] theorem opsWeight_cons (op : Op) (rest : List Op) : opsWeight (op :: rest) = opWeight op + opsWeight rest := by
  simp [opsWeight]
@[simp] theorem opsWeight_append (x y : List Op) : opsWeight (x ++ y) = opsWeight x + opsWeight y := by
  simp [opsWeight]

theorem opWeight_pos (op : Op) : 0 < opWeight op := by cases op <;> simp [opWeight]

/-- Performing an entry leaves at most its weight less one in front of the rest. -/
theorem Op.perform_weight (op : Op) (a : Agent) (th : Thread) (s : State) :
    opsWeight (op.perform a th s).1.ops + 1 ≤ opWeight op + opsWeight th.ops := by
  cases op <;> simp only [Op.perform, runReadLoad, runSlotCopy, runHrtInit, runHrtFlag, runHrtLag, runHrtOverrun,
    runHrtResync, runBeInit, runBeLag, runBeSkip, runBeAgain, runBeJump, runFaultCheck, opWeight]
  case readLoad i r =>
    split
    · cases r with
      | plain => simp [readFailed, Thread.withResult]
      | hrt k => simp [readFailed, Thread.prepend, faultSetOps, faultSetNumberOps, opWeight]; omega
      | be k sk => cases sk <;> simp [readFailed, Thread.withResult, Thread.prepend, opWeight]
    · simp [Thread.prepend, opWeight]
  case slotCopy i r => cases r <;> simp [readSucceeded, Thread.withResult, Nat.add_comm]
  all_goals repeat' split
  all_goals
    simp [Thread.withResult, Thread.prepend, faultSetOps, faultSetNumberOps, streamReadOps, opWeight, Nat.add_comm]
  all_goals omega

/-- A command whose agent is not switched out runs to its end, within fuel above its weight. -/
theorem drive_finishes (a : Agent) (n : Nat) (th : Thread) (s : State) (hb : s.turn.budget = none)
    (hw : opsWeight th.ops < n) : ∃ th' s', drive a n th s = State.finish s' a th' := by
  induction n generalizing th s with
  | zero => omega
  | succ n ih =>
    cases ho : th.ops with
    | nil => exact ⟨th, s, drive_done a n th s ho⟩
    | cons op rest =>
      rw [drive_cons a n op rest th s ho hb]
      refine ih _ _ (by rw [Op.perform_budget, hb]) ?_
      have h1 := op.perform_weight a { th with ops := rest } s
      rw [ho, opsWeight_cons] at hw
      have : opsWeight ({ th with ops := rest } : Thread).ops = opsWeight rest := rfl
      omega

/-- More fuel than the weight changes nothing. -/
theorem drive_fuel (a : Agent) (n m : Nat) (th : Thread) (s : State) (hn : opsWeight th.ops < n) (hm : opsWeight th.ops < m) :
    drive a n th s = drive a m th s := by
  induction n generalizing m th s with
  | zero => omega
  | succ n ih =>
    obtain ⟨m, rfl⟩ : ∃ k, m = k + 1 := ⟨m - 1, by omega⟩
    cases ho : th.ops with
    | nil => rw [drive_done a n th s ho, drive_done a m th s ho]
    | cons op rest =>
      rw [ho, opsWeight_cons] at hn hm
      have hp := opWeight_pos op
      have hstep : ∀ u : State, drive a n (op.perform a { th with ops := rest } u).1 (op.perform a { th with ops := rest } u).2 =
          drive a m (op.perform a { th with ops := rest } u).1 (op.perform a { th with ops := rest } u).2 := by
        intro u
        have h1 := op.perform_weight a { th with ops := rest } u
        have h2 : opsWeight ({ th with ops := rest } : Thread).ops = opsWeight rest := rfl
        exact ih m _ _ (by omega) (by omega)
      simp only [drive, ho, hstep]

/-! ### Issuing -/

theorem State.issue_failing (s : State) (checks : List (Status × Bool)) (body : State → Thread × State) (st : Status)
    (h : firstFailure checks = some st) :
    s.issue checks body = .next (s.respond s.turn.agent (errorResponse st)) := by simp [State.issue, h]

theorem State.issue_passing (s : State) (checks : List (Status × Bool)) (body : State → Thread × State)
    (h : firstFailure checks = none) :
    s.issue checks body = .next (drive s.turn.agent sliceFuel (body s).1 (body s).2) := by simp [State.issue, h]

/-- Every command answers a next state: a response, or an error answer. -/
theorem State.issue_next (s : State) (checks : List (Status × Bool)) (body : State → Thread × State) :
    ∃ t, s.issue checks body = .next t := by
  unfold State.issue; split <;> exact ⟨_, rfl⟩

end Sys2Proof.Machine
end

