-- ==== Sys2Proof/Laws/Operands.lean ====
section
/-!
SUPPORT. The checks the machine runs on operand words are the well-formedness of Sys2Proof/WellFormed.lean, written another way.
-/

namespace Sys2Proof.Machine

/-- A 32-bit operand word is legal exactly when the command is well formed in it (30_encoding.md R142 to R144). -/
theorem wordOperandOk_eq (a : Word64) : wordOperandOk a = WellFormed.word32 a := by
  unfold wordOperandOk WellFormed.word32
  rw [Bool.eq_iff_iff]
  simp only [beq_iff_eq, decide_eq_true_eq]
  constructor
  · intro h
    have := congrArg BitVec.toNat h
    simp [BitVec.extractLsb'_toNat, Nat.shiftRight_eq_div_pow] at this
    omega
  · intro h
    apply BitVec.eq_of_toNat_eq
    simp [BitVec.extractLsb'_toNat, Nat.shiftRight_eq_div_pow]
    omega

/-- A paddle word is legal exactly when it is below 4 (30_encoding.md R141). -/
theorem paddleOperandOk_eq (a : Word64) : paddleOperandOk a = WellFormed.paddleWord a := by
  unfold paddleOperandOk WellFormed.paddleWord
  rw [Bool.eq_iff_iff]
  simp only [beq_iff_eq, decide_eq_true_eq]
  constructor
  · intro h
    have := congrArg BitVec.toNat h
    simp [BitVec.extractLsb'_toNat, Nat.shiftRight_eq_div_pow] at this
    omega
  · intro h
    apply BitVec.eq_of_toNat_eq
    simp [BitVec.extractLsb'_toNat, Nat.shiftRight_eq_div_pow]
    omega

/-- A configuration word is legal exactly when it has 11 bits and a speed (30_encoding.md R140). -/
theorem configOperandOk_eq (a : Word64) : configOperandOk a = WellFormed.configWord a := by
  unfold configOperandOk WellFormed.configWord
  rw [Bool.eq_iff_iff]
  simp only [beq_iff_eq, bne_iff_ne, Bool.and_eq_true, decide_eq_true_eq, ← BitVec.toNat_inj, ne_eq]
  simp [BitVec.extractLsb'_toNat, Nat.shiftRight_eq_div_pow]
  omega

/-- A fault code word is legal exactly when it is 1 to 4 (30_encoding.md R143). -/
theorem codeOperandOk_eq (a : Word64) : codeOperandOk a = WellFormed.faultCode a := by
  unfold codeOperandOk WellFormed.faultCode operandCode
  rw [Bool.eq_iff_iff]
  simp only [beq_iff_eq, bne_iff_ne, Bool.and_eq_true, decide_eq_true_eq, ← BitVec.toNat_inj, ne_eq, BitVec.le_def]
  simp [BitVec.extractLsb'_toNat, Nat.shiftRight_eq_div_pow]
  omega

/-- A sample word is legal exactly when its reserved bits are 0 (30_encoding.md R136, R145). -/
theorem sampleOperandOk_eq (a : Word64) : sampleOperandOk a = WellFormed.sampleWord a := by
  unfold sampleOperandOk WellFormed.sampleWord sampleReservedClear operandSample
  rw [Bool.eq_iff_iff]
  simp only [beq_iff_eq, Bool.and_eq_true]
  constructor
  · rintro ⟨h1, ⟨h2, h3⟩, h4⟩
    apply BitVec.eq_of_getLsbD_eq
    intro i hi
    have e1 := fun j => congrArg (fun x => x.getLsbD j) h1
    have e2 := fun j => congrArg (fun x => x.getLsbD j) h2
    have e3 := fun j => congrArg (fun x => x.getLsbD j) h3
    have e4 := fun j => congrArg (fun x => x.getLsbD j) h4
    simp only [BitVec.getLsbD_extractLsb', BitVec.getLsbD_zero] at e1 e2 e3 e4
    rw [BitVec.getLsbD_and, BitVec.getLsbD_zero]
    by_cases c1 : 48 ≤ i
    · have := e1 (i - 48); simp [show i - 48 < 16 by omega, show 48 + (i - 48) = i by omega] at this; simp [this]
    by_cases c2 : 2 ≤ i ∧ i < 8
    · have := e2 (i - 2); simp [show i - 2 < 6 by omega, show 2 + (i - 2) = i by omega, show i < 48 by omega] at this; simp [this]
    by_cases c3 : 9 ≤ i ∧ i < 16
    · have := e3 (i - 9); simp [show i - 9 < 7 by omega, show 9 + (i - 9) = i by omega, show i < 48 by omega] at this; simp [this]
    by_cases c4 : 29 ≤ i ∧ i < 32
    · have := e4 (i - 29); simp [show i - 29 < 3 by omega, show 29 + (i - 29) = i by omega, show i < 48 by omega] at this; simp [this]
    have : (0xFFFF0000E000FEFC#64).getLsbD i = false := by
      have hh : ∀ i : Fin 64, ¬ 48 ≤ i.val → ¬ (2 ≤ i.val ∧ i.val < 8) → ¬ (9 ≤ i.val ∧ i.val < 16) → ¬ (29 ≤ i.val ∧ i.val < 32) →
         (0xFFFF0000E000FEFC#64).getLsbD i.val = false := by decide
      exact hh ⟨i, hi⟩ c1 c2 c3 c4
    simp [this]
  · intro h
    have e := fun j => congrArg (fun x => x.getLsbD j) h
    simp only [BitVec.getLsbD_and, BitVec.getLsbD_zero] at e
    have field : ∀ st n, (∀ i : Fin n, (0xFFFF0000E000FEFC#64).getLsbD (st + i.val) = true) →
        ∀ i, i < n → a.getLsbD (st + i) = false := by
      intro st n hm i hi
      have := e (st + i)
      rw [hm ⟨i, hi⟩] at this
      simpa using this
    refine ⟨?_, ⟨?_, ?_⟩, ?_⟩ <;> apply BitVec.eq_of_getLsbD_eq <;> intro i hi <;>
      simp only [BitVec.getLsbD_extractLsb', BitVec.getLsbD_zero]
    · simp [field 48 16 (by decide) i hi]
    · simp [field 2 6 (by decide) i hi]
    · simp [field 9 7 (by decide) i hi]
    · simp [field 29 3 (by decide) i hi]

end Sys2Proof.Machine
end

