-- ==== Sys2Proof/Laws/Admission.lean ====
section
/-!
SUPPORT. Every meaning is one list of checks and one body: which check fails first, and what runs when none does
(60_exceptions.md R400 to R410).
-/

namespace Sys2Proof.Machine

/-- The checks of each command, in the order of the meaning. -/
def checksOf (s : State) : Instr → List (Status × Bool)
  | .strmInit => [(.errRole, s.byProducer)]
  | .push a => [(.errRole, s.byProducer), (.errBadArg, sampleOperandOk a)]
  | .pushRaw a => [(.errRole, s.byProducer), (.errBadArg, sampleOperandOk a)]
  | .flush => [(.errRole, s.byProducer)]
  | .read a => [(.errBadArg, wordOperandOk a)]
  | .wpos => []
  | .lag a => [(.errBadArg, wordOperandOk a)]
  | .overrun a => [(.errBadArg, wordOperandOk a)]
  | .hrtInit k a => [(.errRole, s.ownsContext k), (.errBadArg, wordOperandOk a)]
  | .hrtTick k => [(.errRole, s.ownsContext k), (.errNotReady, s.ctxReady k), (.errMode, (s.ctx k).mode == .hrt)]
  | .hrtResync k => [(.errRole, s.ownsContext k), (.errNotReady, s.ctxReady k), (.errMode, (s.ctx k).mode == .hrt)]
  | .beInit k a b => [(.errRole, s.ownsContext k), (.errBadArg, wordOperandOk a && wordOperandOk b)]
  | .beTick k => [(.errRole, s.ownsContext k), (.errNotReady, s.ctxReady k), (.errMode, (s.ctx k).mode == .be)]
  | .beDropped k => [(.errRole, s.ownsContext k), (.errNotReady, s.ctxReady k), (.errMode, (s.ctx k).mode == .be)]
  | .fltSet a b => [(.errRole, s.byProducer || s.byOperator), (.errBadArg, codeOperandOk a && wordOperandOk b)]
  | .fltClear => [(.errRole, s.byOperator)]
  | .fltActive => []
  | .fltCode => []
  | .fltData => []
  | .fltCount => []
  | .iamCfg a => [(.errRole, s.byProducer), (.errBadArg, configOperandOk a), (.errBusy, s.fsm.st == .idle)]
  | .iamTick _ b => [(.errRole, s.byProducer), (.errNotReady, s.fsmReady), (.errBadArg, paddleOperandOk b)]
  | .prodTick _ b =>
    [(.errRole, s.byProducer), (.errNotReady, s.ctxReady 0#4 && s.fsmReady), (.errMode, (s.ctx 0#4).mode == .hrt),
      (.errBadArg, paddleOperandOk b)]

/-- The command in progress of an admitted command, and the state after the private work before its first micro-step. -/
def bodyOf (s : State) : Instr → Thread × State
  | .strmInit => (Thread.start [.strmZero, .strmPublish] 0, s)
  | .push a =>
    match s.pushBody (operandSample a) with
    | (accepted, ops, t1) => (Thread.start ops ((BitVec.ofBool accepted).zeroExtend 64), t1)
  | .pushRaw a => (Thread.start (writeSlotOps (operandSample a)) 1, s)
  | .flush => (Thread.start (flushPendingOps s.idleCnt) 0, s)
  | .read a => (Thread.start (streamReadOps (operandWord a) .plain) 0, s)
  | .wpos => (Thread.start [.wpos] 0, s)
  | .lag a => (Thread.start [.lag (operandWord a)] 0, s)
  | .overrun a => (Thread.start [.overrun (operandWord a)] 0, s)
  | .hrtInit k a => (Thread.start [.hrtInit k (operandWord a)] 0, s)
  | .hrtTick k => (Thread.start (hrtBodyOps k) 0, s)
  | .hrtResync k => (Thread.start [.hrtResync k] 0, s)
  | .beInit k a b => (Thread.start [.beInit k (operandWord a) (operandWord b)] 0, s)
  | .beTick k => (Thread.start [.beLag k] 0, s)
  | .beDropped k => (Thread.start [] ((s.ctx k).dropped.zeroExtend 64), s)
  | .fltSet a b => (Thread.start (faultSetNumberOps (operandCode a) (operandWord b)) 0, s)
  | .fltClear => (Thread.start faultClearOps 0, s)
  | .fltActive => (Thread.start [.fltActive] 0, s)
  | .fltCode => (Thread.start [.fltCode] 0, s)
  | .fltData => (Thread.start [.fltData] 0, s)
  | .fltCount => (Thread.start [.fltCount] 0, s)
  | .iamCfg a => (Thread.start [] 0, { s with fsm := { s.fsm with cfg := operandConfig a } })
  | .iamTick a b =>
    (Thread.start [] (((s.fsm.tick a (operandPaddles b)).output (operandPaddles b)).zeroExtend 64),
      { s with fsm := s.fsm.tick a (operandPaddles b) })
  | .prodTick a b => s.prodTickBody a (operandPaddles b)

/-- Every arm issues its checks and its body. -/
theorem exec_eq_issue (i : Instr) (s : State) : exec i s = s.issue (checksOf s i) (fun t => bodyOf t i) := by
  cases i <;> rfl


/-- The first check that fails is the one the tables of 60_exceptions.md name. -/
theorem firstFailure_iff (s : State) (i : Instr) (st : Status) :
    firstFailure (checksOf s i) = some st ↔ s.fails i st := by
  have hi : s.issuer = s.turn.agent := rfl
  cases i
  case hrtTick k =>
    cases hm : (s.ctx k).mode <;> cases st <;>
    simp [checksOf, firstFailure, State.fails, roleOf, Role.admits, State.notReady, State.otherMode, State.busy,
      Instr.wellFormed, State.ownsContext, State.ctxReady, hm, hi] <;>
      (try (repeat' split)) <;> simp_all
  case hrtResync k =>
    cases hm : (s.ctx k).mode <;> cases st <;>
    simp [checksOf, firstFailure, State.fails, roleOf, Role.admits, State.notReady, State.otherMode, State.busy,
      Instr.wellFormed, State.ownsContext, State.ctxReady, hm, hi] <;>
      (try (repeat' split)) <;> simp_all
  case beTick k =>
    cases hm : (s.ctx k).mode <;> cases st <;>
    simp [checksOf, firstFailure, State.fails, roleOf, Role.admits, State.notReady, State.otherMode, State.busy,
      Instr.wellFormed, State.ownsContext, State.ctxReady, hm, hi] <;>
      (try (repeat' split)) <;> simp_all
  case beDropped k =>
    cases hm : (s.ctx k).mode <;> cases st <;>
    simp [checksOf, firstFailure, State.fails, roleOf, Role.admits, State.notReady, State.otherMode, State.busy,
      Instr.wellFormed, State.ownsContext, State.ctxReady, hm, hi] <;>
      (try (repeat' split)) <;> simp_all
  case prodTick a b =>
    cases hm : (s.ctx 0).mode <;> cases st <;>
    simp [checksOf, firstFailure, State.fails, roleOf, Role.admits, State.notReady, State.otherMode, State.busy,
      Instr.wellFormed, State.byProducer, State.ctxReady, State.fsmReady, hi, paddleOperandOk_eq] <;>
      (try (repeat' split)) <;> simp_all
  all_goals
    cases st <;>
    simp [checksOf, firstFailure, State.fails, roleOf, Role.admits, State.notReady, State.otherMode, State.busy,
      Instr.wellFormed, State.byProducer, State.byOperator, State.ownsContext, State.fsmReady,
      wordOperandOk_eq, paddleOperandOk_eq, configOperandOk_eq, codeOperandOk_eq, sampleOperandOk_eq, hi] <;>
      (try (repeat' split)) <;> simp_all

/-- An admitted command fails no check. -/
theorem firstFailure_none (s : State) (i : Instr) (h : s.admitsCommand i) : firstFailure (checksOf s i) = none := by
  cases hf : firstFailure (checksOf s i) with
  | none => rfl
  | some st =>
    have := (firstFailure_iff s i st).1 hf
    obtain ⟨h1, h2, h3, h4, h5⟩ := h
    cases st <;> simp_all [State.fails]

/-- A command fails a check or is admitted. -/
theorem fails_or_admits (s : State) (i : Instr) : (∃ st, s.fails i st) ∨ s.admitsCommand i := by
  by_cases h1 : (roleOf i).admits s.params.nc s.issuer
  · by_cases h2 : s.notReady i
    · exact .inl ⟨.errNotReady, h1, h2⟩
    · by_cases h3 : s.otherMode i
      · exact .inl ⟨.errMode, h1, h2, h3⟩
      · cases h4 : i.wellFormed
        · exact .inl ⟨.errBadArg, h1, h2, h3, h4⟩
        · by_cases h5 : s.busy i
          · exact .inl ⟨.errBusy, h1, h2, h3, h4, h5⟩
          · exact .inr ⟨h1, h2, h3, h4, h5⟩
  · exact .inl ⟨.errRole, h1⟩

/-- A command that fails no check is admitted. -/
theorem admits_of_passing (s : State) (i : Instr) (h : firstFailure (checksOf s i) = none) : s.admitsCommand i := by
  rcases fails_or_admits s i with ⟨st, hf⟩ | ha
  · rw [(firstFailure_iff s i st).2 hf] at h; cases h
  · exact ha

/-- An admitted command runs its body. -/
theorem exec_admitted (s : State) (i : Instr) (h : s.admitsCommand i) :
    exec i s = .next (drive s.turn.agent sliceFuel (bodyOf s i).1 (bodyOf s i).2) := by
  rw [exec_eq_issue, State.issue_passing _ _ _ (firstFailure_none s i h)]

/-- A command that fails a check is answered. -/
theorem exec_failed (s : State) (i : Instr) (st : Status) (h : s.fails i st) :
    exec i s = .next (s.respond s.turn.agent (errorResponse st)) := by
  rw [exec_eq_issue, State.issue_failing _ _ _ st ((firstFailure_iff s i st).2 h)]

/-- Every command answers a next state: refused and answered, or run. -/
theorem exec_cases (i : Instr) (s t : State) (h : exec i s = .next t) :
    (∃ st, s.fails i st ∧ t = s.respond s.turn.agent (errorResponse st)) ∨
      (s.admitsCommand i ∧ t = drive s.turn.agent sliceFuel (bodyOf s i).1 (bodyOf s i).2) := by
  rcases fails_or_admits s i with ⟨st, hf⟩ | ha
  · rw [exec_failed s i st hf] at h; cases h; exact .inl ⟨st, hf, rfl⟩
  · rw [exec_admitted s i ha] at h; cases h; exact .inr ⟨ha, rfl⟩

end Sys2Proof.Machine
end

