-- ==== Sys2Proof/Laws/Canonical.lean ====
section
/-!
SUPPORT. Every operation on the slot RAM, the context file, the ports and the queues keeps their canonical form, and the state
after reset has it.
-/

namespace Sys2Proof.Machine

/-- CAP as a number (00_scope.md R7). -/
theorem Params.cap_toNat (p : Params) : p.cap.toNat = 2 ^ p.capLog2.val := by
  have h : 2 ^ p.capLog2.val < 2 ^ 32 := Nat.pow_lt_pow_right (by norm_num) p.capLog2.isLt
  rw [Params.cap, BitVec.toNat_ofNat, Nat.mod_eq_of_lt h]

/-- A lag exceeds CAP as a word exactly when it does as a number (00_scope.md R9). -/
theorem Params.cap_lt_iff (p : Params) (x : Word32) : p.cap < x ↔ 2 ^ p.capLog2.val < x.toNat := by
  rw [BitVec.lt_def, Params.cap_toNat]

/-- The slot of an index exists: `i & (CAP-1) < CAP` (20_memory.md R81). -/
theorem State.slotOf_lt (s : State) (i : LogIdx) : s.slotOf i < 2 ^ s.params.capLog2.val := by
  have hp : 0 < 2 ^ s.params.capLog2.val := Nat.pow_pos (by norm_num)
  have h1 : (1#32 : Word32).toNat ≤ s.params.cap.toNat := by rw [Params.cap_toNat]; exact hp
  have h2 : (s.params.cap - 1#32).toNat = 2 ^ s.params.capLog2.val - 1 := by
    rw [BitVec.toNat_sub_of_le (by rw [BitVec.le_def]; exact h1), Params.cap_toNat]; rfl
  unfold State.slotOf
  rw [BitVec.toNat_and, h2]
  exact lt_of_le_of_lt Nat.and_le_right (by omega)

/-- A write of an existing slot keeps the canonical form. -/
theorem setSlot_wf (s : State) (n : Nat) (v : Sample) (h : Memory.wf s.params s.slots) (hn : n < 2 ^ s.params.capLog2.val) :
    Memory.wf (s.setSlot n v).params (s.setSlot n v).slots := sparsePut_wf _ _ _ h hn

/-- `slot_write_end` keeps the canonical form. -/
theorem slotWriteEnd_wf (s : State) (v : Sample) (h : Memory.wf s.params s.slots) :
    Memory.wf (s.slotWriteEnd v).params (s.slotWriteEnd v).slots := setSlot_wf s _ v h (s.slotOf_lt _)

/-- Zeroing the stream gives the canonical form. -/
theorem zeroStream_wf (s : State) : Memory.wf s.zeroStream.params s.zeroStream.slots := ⟨List.Pairwise.nil, by simp [State.zeroStream]⟩

/-- The slot RAM after reset has the canonical form. -/
theorem reset_memory_wf : Memory.wf State.reset.params State.reset.slots := ⟨List.Pairwise.nil, by simp [State.reset, State.resetWith]⟩

/-- Every agent's place in the port tables is below 17. -/
theorem Agent.index_lt (a : Agent) : a.index < 17 := by
  cases a with
  | producer => simp [Agent.index]
  | reader n => have := n.isLt; simp only [Agent.index]; omega
  | operator => simp [Agent.index]

/-- A write of a port keeps the ports canonical. -/
theorem setPort_wf (s : State) (a : Agent) (p : Port) (h : sparseWf Port.idle 17 s.ports) :
    sparseWf Port.idle 17 (s.setPort a p).ports := sparsePut_wf _ _ _ h a.index_lt

/-- A write of a queue keeps the queues canonical. -/
theorem setInbox_wf (s : State) (a : Agent) (cs : List Command) (h : sparseWf [] 17 s.inboxes) :
    sparseWf [] 17 (s.setInbox a cs).inboxes := sparsePut_wf _ _ _ h a.index_lt

/-- A write of an existing context keeps the context file canonical. -/
theorem setCtx_wf (s : State) (k : CtxIdx) (c : Context) (h : sparseWf Context.reset s.params.nc s.ctxs)
    (hk : k.toNat < s.params.nc) : sparseWf Context.reset s.params.nc (s.setCtx k c).ctxs := sparsePut_wf _ _ _ h hk

/-- Marking the commands in progress keeps the ports canonical. -/
theorem markOverlapped_wf (s : State) (h : sparseWf Port.idle 17 s.ports) :
    sparseWf Port.idle 17 s.markOverlapped.ports := by
  refine ⟨List.pairwise_map.2 h.1, fun e he => ?_⟩
  obtain ⟨x, hx, rfl⟩ := List.mem_map.1 he
  refine ⟨(h.2 x hx).1, fun hidle => ?_⟩
  obtain ⟨i, ⟨thread, response, view, loaded⟩⟩ := x
  cases thread with
  | none => exact (h.2 _ hx).2 hidle
  | some th => simp [Port.idle] at hidle

/-- What marking does to one port. -/
theorem port_markOverlapped (s : State) (a : Agent) :
    s.markOverlapped.port a =
      { s.port a with thread := (s.port a).thread.map fun th => { th with overlapped := true } } := by
  unfold State.markOverlapped State.port
  simp only []
  induction s.ports with
  | nil => rfl
  | cons e rest ih =>
    simp only [List.map_cons, sparseGet]
    split
    · rfl
    · exact ih

end Sys2Proof.Machine
end

