-- ==== Sys2Proof/Laws/Frames.lean ====
section
/-!
SUPPORT. What each entry of a command in progress can change, what it can put in front of the rest, and the inductions over a
command's run that every frame and every invariant rests on.
-/

namespace Sys2Proof.Machine

/-! ### Induction over a run -/


theorem drive_induct (a : Agent) (I : Thread → State → Prop) (hspend : ∀ th s, I th s → I th s.spend)
    (hstep : ∀ op rest th s, th.ops = op :: rest → I th s →
      I (op.perform a { th with ops := rest } s).1 (op.perform a { th with ops := rest } s).2)
    (n : Nat) (th : Thread) (s : State) (h : I th s) :
    ∃ th' s', I th' s' ∧ (th'.ops = [] ∧ drive a n th s = s'.finish a th' ∨ drive a n th s = s'.park a th') := by
  induction n generalizing th s with
  | zero => exact ⟨th, s, h, .inr rfl⟩
  | succ n ih =>
    cases ho : th.ops with
    | nil => exact ⟨th, s, h, .inl ⟨ho, drive_done a n th s ho⟩⟩
    | cons op rest =>
      simp only [drive, ho]
      split
      · exact ih _ _ (hstep op rest th s ho h)
      · split
        · exact ⟨th, s, h, .inr rfl⟩
        · exact ih _ _ (hstep op rest th s.spend ho (hspend th s h))

theorem drive_ends (a : Agent) (I : Thread → State → Prop)
    (hstep : ∀ op rest th s, th.ops = op :: rest → s.turn.budget = none → I th s →
      I (op.perform a { th with ops := rest } s).1 (op.perform a { th with ops := rest } s).2)
    (n : Nat) (th : Thread) (s : State) (hb : s.turn.budget = none) (hw : opsWeight th.ops < n) (h : I th s) :
    ∃ th' s', I th' s' ∧ th'.ops = [] ∧ drive a n th s = s'.finish a th' := by
  induction n generalizing th s with
  | zero => omega
  | succ n ih =>
    cases ho : th.ops with
    | nil => exact ⟨th, s, h, ho, drive_done a n th s ho⟩
    | cons op rest =>
      rw [drive_cons a n op rest th s ho hb]
      refine ih _ _ (by rw [Op.perform_budget, hb]) ?_ (hstep op rest th s ho hb h)
      have h1 := op.perform_weight a { th with ops := rest } s
      rw [ho, opsWeight_cons] at hw
      have : opsWeight ({ th with ops := rest } : Thread).ops = opsWeight rest := rfl
      omega

theorem readSucceeded_frame (r : Reader) (v : Sample) (th : Thread) (s : State) :
    ∃ c, (readSucceeded r v th s).2 = { s with ctxs := c } := by
  cases r <;> exact ⟨_, rfl⟩

theorem readFailed_state (r : Reader) (b : Word32) (th : Thread) (s : State) :
    (readFailed r b th s).2 = s := by
  cases r with
  | plain => rfl
  | hrt k => rfl
  | be k sk => cases sk <;> rfl

theorem copySlot_frame (s : State) (o : Bool) (i : LogIdx) :
    ∃ d, (s.copySlot o i).2 = { s with draws := d } := by
  unfold State.copySlot; split
  · exact ⟨_, rfl⟩
  · exact ⟨s.draws, rfl⟩

theorem takeLatch_frame (s : State) (k : Kind) (v : Word64) : ∃ b, s.takeLatch k v = { s with outLatch := b } := by
  unfold State.takeLatch; split
  · exact ⟨_, rfl⟩
  · exact ⟨s.outLatch, rfl⟩

theorem runSlotCopy_eq (i : LogIdx) (r : Reader) (th : Thread) (s : State) : runSlotCopy i r th s =
    readSucceeded r (s.copySlot th.overlapped i).1 th (s.copySlot th.overlapped i).2 := rfl

theorem runSlotCopy_frame (i : LogIdx) (r : Reader) (th : Thread) (s : State) :
    ∃ c d, (runSlotCopy i r th s).2 = { s with ctxs := c, draws := d } := by
  rw [runSlotCopy_eq]
  obtain ⟨d, hd⟩ := copySlot_frame s th.overlapped i
  obtain ⟨c, hc⟩ := readSucceeded_frame r (s.copySlot th.overlapped i).1 th (s.copySlot th.overlapped i).2
  exact ⟨c, d, by rw [hc, hd]⟩

/-! ### Frames of one entry -/

/-- An entry that writes the fault record. -/
def Op.writesFault : Op → Bool
  | .strmZero => false
  | .strmPublish => false
  | .slotWriteBegin => false
  | .slotWriteEnd _ => false
  | .publish => false
  | .clearIdle => false
  | .setLast _ => false
  | .storeCode _ => true
  | .storeData _ => true
  | .countFault => true
  | .storeActive _ => true
  | .result _ _ => false
  | .wpos => false
  | .lag _ => false
  | .overrun _ => false
  | .readLoad _ _ => false
  | .slotCopy _ _ => false
  | .hrtInit _ _ => false
  | .hrtFlag _ => false
  | .hrtLag _ => false
  | .hrtOverrun _ => false
  | .hrtResync _ => false
  | .beInit _ _ _ => false
  | .beLag _ => false
  | .beSkip _ => false
  | .beAgain _ => false
  | .beJump _ => false
  | .fltActive => false
  | .fltCode => false
  | .fltData => false
  | .fltCount => false
  | .latch => false
  | .faultCheck _ => false

/-- An entry that writes neither the stream nor the fault record. -/
theorem perform_shape (op : Op) (a : Agent) (th : Thread) (s : State) (h : op.writesStream = false)
    (h2 : op.writesFault = false) : ∃ p c b d ages, (op.perform a th s).2 =
      { s with ports := p, ctxs := c, outLatch := b, draws := d, turn := { s.turn with ages := ages } } := by
  cases op
  case strmZero => cases h
  case strmPublish => cases h
  case slotWriteBegin => cases h
  case slotWriteEnd => cases h
  case publish => cases h
  case clearIdle => cases h
  case setLast => cases h
  case storeCode => cases h2
  case storeData => cases h2
  case countFault => cases h2
  case storeActive => cases h2
  case readLoad i r =>
    simp only [Op.perform, runReadLoad]; split
    · simp only [readFailed_state]; exact ⟨_, _, _, _, _, rfl⟩
    · exact ⟨_, _, _, _, _, rfl⟩
  case slotCopy i r =>
    obtain ⟨c, d, h⟩ := runSlotCopy_frame i r th s
    simp only [Op.perform, h]; exact ⟨_, _, _, _, _, rfl⟩
  case latch =>
    obtain ⟨c, h⟩ := takeLatch_frame s th.kind th.value
    simp only [Op.perform, h]; exact ⟨_, _, _, _, _, rfl⟩
  case hrtFlag => simp only [Op.perform, runHrtFlag]; split <;> exact ⟨_, _, _, _, _, rfl⟩
  case hrtLag => simp only [Op.perform, runHrtLag]; (repeat' split) <;> exact ⟨_, _, _, _, _, rfl⟩
  case hrtOverrun => simp only [Op.perform, runHrtOverrun]; split <;> exact ⟨_, _, _, _, _, rfl⟩
  case beLag => simp only [Op.perform, runBeLag]; (repeat' split) <;> exact ⟨_, _, _, _, _, rfl⟩
  case beSkip => simp only [Op.perform, runBeSkip]; split <;> exact ⟨_, _, _, _, _, rfl⟩
  case beAgain => simp only [Op.perform, runBeAgain]; split <;> exact ⟨_, _, _, _, _, rfl⟩
  case faultCheck => simp only [Op.perform, runFaultCheck]; split <;> exact ⟨_, _, _, _, _, rfl⟩
  all_goals exact ⟨_, _, _, _, _, rfl⟩

theorem perform_outside (op : Op) (a : Agent) (th : Thread) (s : State) :
    let t := (op.perform a th s).2
    t.params = s.params ∧ t.inboxes = s.inboxes ∧ t.turns = s.turns ∧ t.turn.agent = s.turn.agent ∧
      t.fsm = s.fsm := by
  cases h1 : op.writesStream
  · cases h2 : op.writesFault
    · obtain ⟨_, _, _, _, _, h⟩ := perform_shape op a th s h1 h2
      simp [h]
    · cases op <;> first | exact ⟨rfl, rfl, rfl, rfl, rfl⟩ | cases h2
  · cases op <;> first | exact ⟨rfl, rfl, rfl, rfl, rfl⟩ | cases h1

theorem perform_fault (op : Op) (a : Agent) (th : Thread) (s : State) (h2 : op.writesFault = false) :
    SameFault s (op.perform a th s).2 := by
  cases h1 : op.writesStream
  · obtain ⟨_, _, _, _, _, h⟩ := perform_shape op a th s h1 h2
    simp [h, SameFault]
  · cases op <;> first | exact ⟨rfl, rfl, rfl, rfl⟩ | cases h1

theorem perform_stream (op : Op) (a : Agent) (th : Thread) (s : State) (h1 : op.writesStream = false) :
    SameStream s (op.perform a th s).2 := by
  cases h2 : op.writesFault
  · obtain ⟨_, _, _, _, _, h⟩ := perform_shape op a th s h1 h2
    simp [h, SameStream]
  · cases op <;> first | exact ⟨rfl, rfl, rfl, rfl, rfl⟩ | cases h2

/-- The context a stream read is for. -/
def Reader.context : Reader → Option CtxIdx
  | .plain => none
  | .hrt k => some k
  | .be k _ => some k

/-- The context an entry writes. -/
def Op.ctxWritten : Op → Option CtxIdx
  | .strmZero => none
  | .strmPublish => none
  | .slotWriteBegin => none
  | .slotWriteEnd _ => none
  | .publish => none
  | .clearIdle => none
  | .setLast _ => none
  | .storeCode _ => none
  | .storeData _ => none
  | .countFault => none
  | .storeActive _ => none
  | .result _ _ => none
  | .wpos => none
  | .lag _ => none
  | .overrun _ => none
  | .readLoad _ _ => none
  | .slotCopy _ r => r.context
  | .hrtInit k _ => some k
  | .hrtFlag _ => none
  | .hrtLag _ => none
  | .hrtOverrun _ => none
  | .hrtResync k => some k
  | .beInit k _ _ => some k
  | .beLag _ => none
  | .beSkip k => some k
  | .beAgain _ => none
  | .beJump k => some k
  | .fltActive => none
  | .fltCode => none
  | .fltData => none
  | .fltCount => none
  | .latch => none
  | .faultCheck _ => none

theorem runSlotCopy_ctx (i : LogIdx) (r : Reader) (th : Thread) (s : State) (j : CtxIdx) 
    (h : Op.ctxWritten (.slotCopy i r) ≠ some j) : (runSlotCopy i r th s).2.ctx j = s.ctx j := by
  obtain ⟨d, hd⟩ := copySlot_frame s th.overlapped i
  rw [runSlotCopy_eq, hd]
  cases r with
  | plain => rfl
  | hrt k => 
    have : j ≠ k := fun e => h (by simp [Op.ctxWritten, Reader.context, e])
    simp only [readSucceeded]; rw [State.ctx_setCtx_other _ _ this]; rfl
  | be k _ => 
    have : j ≠ k := fun e => h (by simp [Op.ctxWritten, Reader.context, e])
    simp only [readSucceeded]; rw [State.ctx_setCtx_other _ _ this]; rfl

theorem perform_ctx (op : Op) (a : Agent) (th : Thread) (s : State) (j : CtxIdx) (h : op.ctxWritten ≠ some j) :
    (op.perform a th s).2.ctx j = s.ctx j := by
  cases op <;> simp only [Op.perform, runReadLoad, runHrtInit, runHrtFlag, runHrtLag, runHrtOverrun,
    runHrtResync, runBeInit, runBeLag, runBeSkip, runBeAgain, runBeJump, runFaultCheck]
  case readLoad => split <;> simp [readFailed_state] <;> rfl
  case slotCopy i r => exact runSlotCopy_ctx i r th s j h
  case latch =>
    obtain ⟨c, h⟩ := takeLatch_frame s th.kind th.value
    simp [h]; rfl
  case hrtInit k _ => rw [State.ctx_setCtx_other _ _ (fun e => h (by simp [Op.ctxWritten, e]))]; rfl
  case hrtResync k => rw [State.ctx_setCtx_other _ _ (fun e => h (by simp [Op.ctxWritten, e]))]; rfl
  case beInit k _ _ => rw [State.ctx_setCtx_other _ _ (fun e => h (by simp [Op.ctxWritten, e]))]; rfl
  case beSkip k =>
    split
    · simp only []; rw [State.ctx_setCtx_other _ _ (fun e => h (by simp [Op.ctxWritten, e]))]; rfl
    · rfl
  case beJump k => rw [State.ctx_setCtx_other _ _ (fun e => h (by simp [Op.ctxWritten, e]))]; rfl
  all_goals (repeat' split) <;> rfl

theorem perform_ctxs (op : Op) (a : Agent) (th : Thread) (s : State) (h : op.ctxWritten = none) :
    (op.perform a th s).2.ctxs = s.ctxs := by
  cases op <;> first | (exfalso; revert h; simp [Op.ctxWritten]; done) | skip
  all_goals simp only [Op.perform, runReadLoad, runHrtFlag, runHrtLag, runHrtOverrun,
    runBeLag, runBeAgain, runFaultCheck]
  case readLoad => split <;> simp [readFailed_state]
  case slotCopy i r =>
    cases r with
    | plain =>
      obtain ⟨d, hd⟩ := copySlot_frame s th.overlapped i
      simp [runSlotCopy, readSucceeded, hd]
    | hrt k => cases h
    | be k _ => cases h
  case latch =>
    obtain ⟨c, h⟩ := takeLatch_frame s th.kind th.value
    simp [h]
  all_goals (repeat' split) <;> rfl

theorem perform_outLatch (op : Op) (a : Agent) (th : Thread) (s : State) (h : op ≠ .latch) (h2 : ∀ x, op ≠ .faultCheck x) :
    (op.perform a th s).2.outLatch = s.outLatch := by
  cases op <;> simp only [Op.perform, runReadLoad, runHrtInit, runHrtFlag, runHrtLag, runHrtOverrun,
    runHrtResync, runBeInit, runBeLag, runBeSkip, runBeAgain, runBeJump, runFaultCheck]
  case readLoad => split <;> simp [readFailed_state]
  case slotCopy i r =>
    obtain ⟨c, d, h⟩ := runSlotCopy_frame i r th s
    simp [h]
  case latch => exact absurd rfl h
  case faultCheck x => exact absurd rfl (h2 x)
  all_goals (repeat' split) <;> rfl

theorem perform_port_other (op : Op) (a b : Agent) (th : Thread) (s : State) (hb : b ≠ a)
    (h : op ≠ .strmZero) (h2 : op ≠ .strmPublish) :
    (op.perform a th s).2.port b = s.port b := by
  cases op <;> simp only [Op.perform, runReadLoad, runHrtInit, runHrtFlag, runHrtLag, runHrtOverrun,
    runHrtResync, runBeInit, runBeLag, runBeSkip, runBeAgain, runBeJump, runFaultCheck]
  case strmZero => exact absurd rfl h
  case strmPublish => exact absurd rfl h2
  case readLoad => split <;> simp [readFailed_state, State.acqLoadW] <;> exact State.port_setView_other _ _ hb
  case slotCopy i r =>
    obtain ⟨c, d, h⟩ := runSlotCopy_frame i r th s
    simp [h]; rfl
  case latch =>
    obtain ⟨c, h⟩ := takeLatch_frame s th.kind th.value
    simp [h]; rfl
  all_goals (repeat' split) <;> first | rfl | exact State.port_setView_other _ _ hb | exact State.port_setLoaded_other _ _ hb

/-! ### Bodies -/

theorem respond_same (s : State) (r : Response) : SameButPort s (s.respond s.turn.agent r) := by
  refine ⟨⟨⟨rfl, rfl, rfl, rfl, rfl⟩, ⟨rfl, rfl, rfl, rfl⟩, rfl, rfl, rfl⟩, ⟨rfl, rfl, rfl, ?_⟩, rfl⟩
  intro b hb; exact State.port_respond_other s r hb

theorem bodyOf_weight (s : State) (i : Instr) : opsWeight (bodyOf s i).1.ops < sliceFuel := by
  cases i <;> simp [bodyOf, Thread.start, sliceFuel, opWeight, writeSlotOps, flushPendingOps, streamReadOps, hrtBodyOps, faultSetNumberOps, faultClearOps,
    State.pushBody, State.prodTickBody]
  all_goals (repeat' split) <;> simp [opWeight]
  all_goals simp_all

theorem bodyOf_frame (s : State) (i : Instr) :
    ∃ n f, (bodyOf s i).2 = { s with idleCnt := n, fsm := f } := by
  cases i <;> simp only [bodyOf]
  case push a => unfold State.pushBody; split <;> exact ⟨_, _, rfl⟩
  case prodTick a b => unfold State.prodTickBody State.pushBody; simp only []; split <;> exact ⟨_, _, rfl⟩
  all_goals exact ⟨_, _, rfl⟩

/-! ### What an entry unfolds to -/


/-- What a fault raised by a consumer puts in front of the rest. -/
def raises (code : FaultCode) (new : List Op) : Prop := ∃ d, new = faultSetOps code d ++ [.result .fault 0]

/-- What an entry may put in front of the rest. -/
def Op.unfolds (op : Op) (new : List Op) : Prop :=
  match op with
  | .readLoad i (.hrt k) => new = [.slotCopy i (.hrt k)] ∨ raises .consumerOverrun new
  | .readLoad i (.be k sk) => new = [] ∨ new = [.slotCopy i (.be k sk)] ∨ new = [.beJump k]
  | .readLoad i .plain => new = [] ∨ new = [.slotCopy i .plain]
  | .hrtFlag k => new = [] ∨ new = [.hrtLag k]
  | .hrtLag k => new = [] ∨ new = [.hrtOverrun k] ∨ raises .latencyExceeded new
  | .hrtOverrun k => (∃ i, new = [.readLoad i (.hrt k)]) ∨ raises .consumerOverrun new
  | .beLag k => new = [] ∨ new = [.beSkip k] ∨ ∃ i, new = [.readLoad i (.be k false)]
  | .beSkip k => new = [.beAgain k]
  | .beAgain k => new = [] ∨ ∃ i, new = [.readLoad i (.be k true)]
  | .strmZero => new = []
  | .strmPublish => new = []
  | .slotWriteBegin => new = []
  | .slotWriteEnd _ => new = []
  | .publish => new = []
  | .clearIdle => new = []
  | .setLast _ => new = []
  | .storeCode _ => new = []
  | .storeData _ => new = []
  | .countFault => new = []
  | .storeActive _ => new = []
  | .result _ _ => new = []
  | .wpos => new = []
  | .lag _ => new = []
  | .overrun _ => new = []
  | .slotCopy _ _ => new = []
  | .hrtInit _ _ => new = []
  | .hrtResync _ => new = []
  | .beInit _ _ _ => new = []
  | .beJump _ => new = []
  | .fltActive => new = []
  | .fltCode => new = []
  | .fltData => new = []
  | .fltCount => new = []
  | .latch => new = []
  | .faultCheck _ => new = []

theorem perform_ops (op : Op) (a : Agent) (th : Thread) (s : State) :
    ∃ new, op.unfolds new ∧ (op.perform a th s).1.ops = new ++ th.ops := by
  cases op
  case readLoad i r =>
    simp only [Op.perform, runReadLoad]
    split
    · cases r with
      | plain => exact ⟨[], .inl rfl, rfl⟩
      | hrt k => exact ⟨_, .inr ⟨_, rfl⟩, rfl⟩
      | be k sk => cases sk <;> first | exact ⟨[], .inl rfl, rfl⟩ | exact ⟨_, .inr (.inr rfl), rfl⟩
    · cases r with
      | plain => exact ⟨_, .inr rfl, rfl⟩
      | hrt k => exact ⟨_, .inl rfl, rfl⟩
      | be k sk => exact ⟨_, .inr (.inl rfl), rfl⟩
  case slotCopy i r => exact ⟨[], rfl, by cases r <;> rfl⟩
  case hrtFlag k =>
    simp only [Op.perform, runHrtFlag]; split
    · exact ⟨[], .inl rfl, rfl⟩
    · exact ⟨_, .inr rfl, rfl⟩
  case hrtLag k =>
    simp only [Op.perform, runHrtLag]; split
    · exact ⟨_, .inr (.inr ⟨_, rfl⟩), rfl⟩
    · split
      · exact ⟨[], .inl rfl, rfl⟩
      · exact ⟨_, .inr (.inl rfl), rfl⟩
  case hrtOverrun k =>
    simp only [Op.perform, runHrtOverrun]; split
    · exact ⟨_, .inr ⟨_, rfl⟩, rfl⟩
    · exact ⟨_, .inl ⟨_, rfl⟩, rfl⟩
  case beLag k =>
    simp only [Op.perform, runBeLag]; split
    · exact ⟨[], .inl rfl, rfl⟩
    · split
      · exact ⟨_, .inr (.inl rfl), rfl⟩
      · exact ⟨_, .inr (.inr ⟨_, rfl⟩), rfl⟩
  case beSkip k =>
    simp only [Op.perform, runBeSkip]; split <;> exact ⟨_, rfl, rfl⟩
  case beAgain k =>
    simp only [Op.perform, runBeAgain]; split
    · exact ⟨[], .inl rfl, rfl⟩
    · exact ⟨_, .inr ⟨_, rfl⟩, rfl⟩
  all_goals exact ⟨[], rfl, rfl⟩

/-- A predicate closed under unfolding holds of every entry a command comes to. -/
theorem perform_closed (P : Op → Prop) (hP : ∀ op new, P op → op.unfolds new → ∀ o ∈ new, P o)
    (op : Op) (rest : List Op) (a : Agent) (th : Thread) (s : State) (ho : th.ops = op :: rest) (h : ∀ o ∈ th.ops, P o) :
    ∀ o ∈ (op.perform a { th with ops := rest } s).1.ops, P o := by
  obtain ⟨new, h1, h2⟩ := perform_ops op a { th with ops := rest } s
  intro o hm
  rw [h2, List.mem_append] at hm
  rw [ho] at h
  rcases hm with hm | hm
  · exact hP op new (h op (by simp)) h1 o hm
  · exact h o (List.mem_cons_of_mem _ hm)

/-- Every entry that an unfolding gives, with the entry it comes from. -/
theorem unfolds_cases (op : Op) (new : List Op) (h : op.unfolds new) : ∀ o ∈ new,
    (∃ i r, o = .slotCopy i r ∧ op = .readLoad i r) ∨ (∃ k, o = .hrtLag k ∧ op = .hrtFlag k) ∨ (∃ k, o = .hrtOverrun k ∧ op = .hrtLag k) ∨
    (∃ i k, o = .readLoad i (.hrt k) ∧ op = .hrtOverrun k) ∨ (∃ i k, o = .readLoad i (.be k false) ∧ op = .beLag k) ∨
    (∃ i k, o = .readLoad i (.be k true) ∧ op = .beAgain k) ∨ (∃ k, o = .beSkip k ∧ op = .beLag k) ∨ (∃ k, o = .beAgain k ∧ op = .beSkip k) ∨
    (∃ i k sk, o = .beJump k ∧ op = .readLoad i (.be k sk)) ∨
    ((∃ i k, op = .readLoad i (.hrt k)) ∨ (∃ k, op = .hrtLag k) ∨ (∃ k, op = .hrtOverrun k)) ∧
      (o = .storeCode 1 ∨ o = .storeCode 2 ∨ (∃ d, o = .storeData d) ∨ o = .countFault ∨ o = .storeActive true ∨ o = .result .fault 0) := by
  intro o ho
  cases op <;> try (simp only [Op.unfolds] at h; subst h; cases ho; done)
  case readLoad i r => 
    cases r with
    | plain => rcases h with rfl | rfl <;> simp_all
    | hrt k => rcases h with rfl | ⟨d, rfl⟩ <;> simp_all [faultSetOps, faultSetNumberOps, faultCodeNumber] <;> tauto
    | be k sk => rcases h with rfl | rfl | rfl <;> simp_all
  case hrtFlag k => rcases h with rfl | rfl <;> simp_all
  case hrtLag k => rcases h with rfl | rfl | ⟨d, rfl⟩ <;> simp_all [faultSetOps, faultSetNumberOps, faultCodeNumber] <;> tauto
  case hrtOverrun k => rcases h with ⟨i, rfl⟩ | ⟨d, rfl⟩ <;> simp_all [faultSetOps, faultSetNumberOps, faultCodeNumber] <;> tauto
  case beLag k => rcases h with rfl | rfl | ⟨d, rfl⟩ <;> simp_all
  case beSkip k => cases h; simp_all
  case beAgain k => rcases h with rfl | ⟨d, rfl⟩ <;> simp_all


/-- An entry of a push or a flush. -/
def Op.writesSample : Op → Bool
  | .strmZero => false
  | .strmPublish => false
  | .slotWriteBegin => true
  | .slotWriteEnd _ => true
  | .publish => true
  | .clearIdle => true
  | .setLast _ => true
  | .storeCode _ => false
  | .storeData _ => false
  | .countFault => false
  | .storeActive _ => false
  | .result _ _ => false
  | .wpos => false
  | .lag _ => false
  | .overrun _ => false
  | .readLoad _ _ => false
  | .slotCopy _ _ => false
  | .hrtInit _ _ => false
  | .hrtFlag _ => false
  | .hrtLag _ => false
  | .hrtOverrun _ => false
  | .hrtResync _ => false
  | .beInit _ _ _ => false
  | .beLag _ => false
  | .beSkip _ => false
  | .beAgain _ => false
  | .beJump _ => false
  | .fltActive => false
  | .fltCode => false
  | .fltData => false
  | .fltCount => false
  | .latch => false
  | .faultCheck _ => false

/-- The entries a command starts with. -/
def opening : Instr → Op → Prop
  | .strmInit, o => o = .strmZero ∨ o = .strmPublish
  | .push _, o => o.writesSample = true
  | .pushRaw _, o => o.writesSample = true
  | .flush, o => o.writesSample = true
  | .read a, o => o = .readLoad (operandWord a) .plain
  | .wpos, o => o = .wpos
  | .lag a, o => o = .lag (operandWord a)
  | .overrun a, o => o = .overrun (operandWord a)
  | .hrtInit k a, o => o = .hrtInit k (operandWord a)
  | .hrtTick k, o => o = .hrtFlag k
  | .hrtResync k, o => o = .hrtResync k
  | .beInit k a b, o => o = .beInit k (operandWord a) (operandWord b)
  | .beTick k, o => o = .beLag k
  | .beDropped _, _ => False
  | .fltSet _ _, o => o.writesFault = true ∧ o ≠ .storeActive false
  | .fltClear, o => o.writesFault = true
  | .fltActive, o => o = .fltActive
  | .fltCode, o => o = .fltCode
  | .fltData, o => o = .fltData
  | .fltCount, o => o = .fltCount
  | .iamCfg _, _ => False
  | .iamTick _ _, _ => False
  | .prodTick _ _, o => o.writesSample = true ∨ o = .hrtFlag 0 ∨ o = .latch ∨ ∃ x, o = .faultCheck x

theorem writeSlotOps_mem {v : Sample} {o : Op} (h : o ∈ writeSlotOps v) : o.writesSample = true := by
  simp only [writeSlotOps, List.mem_cons, List.not_mem_nil, or_false] at h
  rcases h with rfl | rfl | rfl <;> rfl

theorem flushPendingOps_mem {n : BitVec 16} {o : Op} (h : o ∈ flushPendingOps n) : o.writesSample = true := by
  unfold flushPendingOps at h
  split at h
  · cases h
  · rcases List.mem_append.1 h with h | h
    · exact writeSlotOps_mem h
    · rw [List.mem_singleton] at h; rw [h]; rfl

theorem pushBody_mem {s : State} {x : Sample} {o : Op} (h : o ∈ (s.pushBody x).2.1) : o.writesSample = true := by
  unfold State.pushBody at h
  split at h
  · cases h
  · rcases List.mem_append.1 h with h | h
    · rcases List.mem_append.1 h with h | h
      · exact flushPendingOps_mem h
      · exact writeSlotOps_mem h
    · rw [List.mem_singleton] at h; rw [h]; rfl

theorem pushBody_fst (s : State) (x : Sample) : (s.pushBody x).1 = true := by
  unfold State.pushBody; split <;> rfl

/-- The push of a PROD_TICK is always accepted (92_eei_decisions.md D16), so its fault is never raised. -/
theorem prodTickBody_eq (s : State) (now : Word64) (p : Paddles) :
    s.prodTickBody now p =
      (Thread.start
        ((({ s with fsm := s.fsm.tick now p } : State).pushBody ((s.fsm.tick now p).output p)).2.1 ++
          [.hrtFlag 0, .latch, .faultCheck ((s.fsm.tick now p).output p)]) 0,
        (({ s with fsm := s.fsm.tick now p } : State).pushBody ((s.fsm.tick now p).output p)).2.2) := by
  unfold State.prodTickBody State.pushBody
  simp only []
  split <;> simp [hrtBodyOps]

/-- The entries a PROD_TICK starts with. -/
theorem prodTick_ops (s : State) (a b : Word64) : (bodyOf s (.prodTick a b)).1.ops =
    (({ s with fsm := s.fsm.tick a (operandPaddles b) } : State).pushBody
        ((s.fsm.tick a (operandPaddles b)).output (operandPaddles b))).2.1 ++
      [.hrtFlag 0, .latch, .faultCheck ((s.fsm.tick a (operandPaddles b)).output (operandPaddles b))] := by
  show (s.prodTickBody a (operandPaddles b)).1.ops = _
  rw [prodTickBody_eq]; rfl

/-- A command starts with the entries of `opening`. -/
theorem bodyOf_opening (s : State) (i : Instr) (o : Op) (h : o ∈ (bodyOf s i).1.ops) : opening i o := by
  cases i
  case push a =>
    have h : o ∈ (s.pushBody (operandSample a)).2.1 := h
    exact pushBody_mem h
  case pushRaw a =>
    simp only [bodyOf, Thread.start] at h
    exact writeSlotOps_mem h
  case flush =>
    simp only [bodyOf, Thread.start] at h
    exact flushPendingOps_mem h
  case strmInit =>
    simp only [bodyOf, Thread.start, List.mem_cons, List.not_mem_nil, or_false] at h
    exact h
  case prodTick a b =>
    rw [prodTick_ops] at h
    simp only [List.mem_append, List.mem_cons, List.not_mem_nil, or_false] at h
    rcases h with h | rfl | rfl | rfl
    · exact .inl (pushBody_mem h)
    · exact .inr (.inl rfl)
    · exact .inr (.inr (.inl rfl))
    · exact .inr (.inr (.inr ⟨_, rfl⟩))
  case fltSet a b =>
    simp only [bodyOf, Thread.start, faultSetNumberOps, List.mem_cons, List.not_mem_nil, or_false] at h
    rcases h with h | h | h | h <;> rw [h] <;> simp [opening, Op.writesFault]
  case fltClear =>
    simp only [bodyOf, Thread.start, faultClearOps, List.mem_cons, List.not_mem_nil, or_false] at h
    rcases h with rfl | rfl | rfl <;> rfl
  all_goals
    simp only [bodyOf, Thread.start, streamReadOps, hrtBodyOps, List.mem_cons, List.not_mem_nil, or_false] at h
    try exact h

/-- A predicate on entries that unfolding keeps. -/
def Closed (P : Op → Prop) : Prop := ∀ op new, P op → op.unfolds new → ∀ o ∈ new, P o

/-- What every entry keeps, every command keeps. -/
theorem exec_track (i : Instr) (s t : State) (P : Op → Prop) (I : State → Prop) (h : exec i s = .next t) (hP : Closed P)
    (h0 : s.admitsCommand i → (∀ o, opening i o → P o)) (hI : s.admitsCommand i → ∀ n f, (bodyOf s i).2 = { s with idleCnt := n, fsm := f } → I (bodyOf s i).2)
    (hspend : ∀ s, I s → I s.spend)
    (hstep : ∀ op th u, P op → I u → I (op.perform s.turn.agent th u).2) :
    (∃ st, s.fails i st ∧ t = s.respond s.turn.agent (errorResponse st)) ∨
    ∃ th' s', I s' ∧ s.admitsCommand i ∧ (t = s'.finish s.turn.agent th' ∨ t = s'.park s.turn.agent th') := by
  rcases exec_cases i s t h with h1 | ⟨ha, rfl⟩
  · exact .inl h1
  · obtain ⟨n, f, hf⟩ := bodyOf_frame s i
    obtain ⟨th', s', ⟨-, hI⟩, hh⟩ := drive_induct s.turn.agent (fun th u => (∀ o ∈ th.ops, P o) ∧ I u)
      (fun th u ⟨a, b⟩ => ⟨a, hspend u b⟩)
      (fun op rest th u ho ⟨a, b⟩ => ⟨perform_closed P hP op rest _ th u ho a, hstep op _ u (a op (by simp [ho])) b⟩)
      sliceFuel _ _ ⟨fun o ho => h0 ha o (bodyOf_opening s i o ho), hI ha n f hf⟩
    exact .inr ⟨th', s', hI, ha, hh.imp And.right id⟩

/-- The unfoldings a predicate has to be closed under. -/
theorem closed_of (P : Op → Prop)
    (h1 : ∀ i r, P (.readLoad i r) → P (.slotCopy i r))
    (h2 : ∀ k, P (.hrtFlag k) → P (.hrtLag k))
    (h3 : ∀ k, P (.hrtLag k) → P (.hrtOverrun k))
    (h4 : ∀ i k, P (.hrtOverrun k) → P (.readLoad i (.hrt k)))
    (h5 : ∀ i k, P (.beLag k) → P (.readLoad i (.be k false)))
    (h6 : ∀ i k, P (.beAgain k) → P (.readLoad i (.be k true)))
    (h7 : ∀ k, P (.beLag k) → P (.beSkip k))
    (h8 : ∀ k, P (.beSkip k) → P (.beAgain k))
    (h9 : ∀ i k sk, P (.readLoad i (.be k sk)) → P (.beJump k))
    (h10 : (∃ i k, P (.readLoad i (.hrt k))) ∨ (∃ k, P (.hrtLag k)) ∨ (∃ k, P (.hrtOverrun k)) → 
      P (.storeCode 1) ∧ P (.storeCode 2) ∧ (∀ d, P (.storeData d)) ∧ P .countFault ∧ P (.storeActive true) ∧ P (.result .fault 0)) : Closed P := by
  intro op new hp hu o ho
  rcases unfolds_cases op new hu o ho with h | h | h | h | h | h | h | h | h | ⟨h', h⟩
  · rcases h with ⟨i, r, rfl, rfl⟩; exact h1 i r hp
  · rcases h with ⟨k, rfl, rfl⟩; exact h2 k hp
  · rcases h with ⟨k, rfl, rfl⟩; exact h3 k hp
  · rcases h with ⟨i, k, rfl, rfl⟩; exact h4 i k hp
  · rcases h with ⟨i, k, rfl, rfl⟩; exact h5 i k hp
  · rcases h with ⟨i, k, rfl, rfl⟩; exact h6 i k hp
  · rcases h with ⟨k, rfl, rfl⟩; exact h7 k hp
  · rcases h with ⟨k, rfl, rfl⟩; exact h8 k hp
  · rcases h with ⟨i, k, sk, rfl, rfl⟩; exact h9 i k sk hp
  · have := h10 (by
      rcases h' with ⟨i, k, rfl⟩ | ⟨k, rfl⟩ | ⟨k, rfl⟩
      · exact .inl ⟨i, k, hp⟩
      · exact .inr (.inl ⟨k, hp⟩)
      · exact .inr (.inr ⟨k, hp⟩))
    obtain ⟨a, b, c, d, e, f⟩ := this
    rcases h with rfl | rfl | ⟨x, rfl⟩ | rfl | rfl | rfl
    · exact a
    · exact b
    · exact c x
    · exact d
    · exact e
    · exact f

end Sys2Proof.Machine
end

