-- ==== Sys2Proof/Laws/Remainders.lean ====
section
/-!
SUPPORT. What may be left of a command (`mayBeLeft`): what a command starts with may be left of it, and what an entry unfolds to may be
left of it again. So a step that goes on with a command keeps whatever every entry of that command keeps.
-/

namespace Sys2Proof.Machine

/-! ### Suffixes and flat entries -/

/-- What is left after the first entry is a suffix too. -/
theorem suffix_tail {op : Op} {rest l : List Op} (h : op :: rest <:+ l) : rest <:+ l := (List.suffix_cons op rest).trans h

/-- The first entry of a suffix is an entry of the whole. -/
theorem suffix_mem {op : Op} {rest l : List Op} (h : op :: rest <:+ l) : op ∈ l := h.subset (by simp)

/-- Every entry of what is left of a push writes the stream and unfolds to nothing. -/
theorem pushLeft_mem {ops} (h : pushLeft ops) : ∀ o ∈ ops, o.writesSample = true := by
  obtain ⟨n, x, h⟩ := h
  intro o ho
  have := h.subset ho
  rcases List.mem_append.1 this with h | h
  · rcases List.mem_append.1 h with h | h
    · exact flushPendingOps_mem h
    · exact writeSlotOps_mem h
  · rw [List.mem_singleton] at h; rw [h]; rfl

/-- An entry of a slot write unfolds to nothing. -/
theorem writesSample_unfolds {op : Op} {new} (h : op.writesSample = true) (hu : op.unfolds new) : new = [] := by
  cases op <;> first | exact hu | cases h

/-- An entry that writes the fault record unfolds to nothing. -/
theorem writesFault_unfolds {op : Op} {new} (h : op.writesFault = true) (hu : op.unfolds new) : new = [] := by
  cases op <;> first | exact hu | cases h

/-- The entries of a FaultSet raised by a tick. -/
theorem faultSet_mem {code d} {o : Op} (h : o ∈ faultSetOps code d ++ [.result .fault 0]) :
    o.writesFault = true ∨ o = .result .fault 0 := by
  simp only [faultSetOps, faultSetNumberOps, List.cons_append, List.nil_append, List.mem_cons, List.not_mem_nil, or_false] at h
  rcases h with rfl | rfl | rfl | rfl | rfl <;> simp [Op.writesFault]

/-- What may be left of a hard-RT tick is closed under performing an entry (41_hrt_consumer.md R241). -/
theorem hrtLeft_step {k} {op : Op} {rest new} (h : hrtTickLeft k (op :: rest))
    (hu : op.unfolds new) : hrtTickLeft k (new ++ rest) := by
  have nil : hrtTickLeft k [] := .inr (.inr (.inr (.inr (.inr ⟨.latencyExceeded, 0, .inl rfl, List.nil_suffix⟩))))
  rcases h with h | h | h | ⟨i, h⟩ | ⟨i, h⟩ | ⟨code, d, hc, h⟩
  · cases h
    rcases hu with rfl | rfl
    · exact nil
    · exact .inr (.inl rfl)
  · cases h
    rcases hu with rfl | rfl | ⟨d, rfl⟩
    · exact nil
    · exact .inr (.inr (.inl rfl))
    · exact .inr (.inr (.inr (.inr (.inr ⟨_, d, .inl rfl, by simp⟩))))
  · cases h
    rcases hu with ⟨i, rfl⟩ | ⟨d, rfl⟩
    · exact .inr (.inr (.inr (.inl ⟨i, rfl⟩)))
    · exact .inr (.inr (.inr (.inr (.inr ⟨_, d, .inr rfl, by simp⟩))))
  · cases h
    rcases hu with rfl | ⟨d, rfl⟩
    · exact .inr (.inr (.inr (.inr (.inl ⟨i, rfl⟩))))
    · exact .inr (.inr (.inr (.inr (.inr ⟨_, d, .inr rfl, by simp⟩))))
  · cases h; cases hu; exact nil
  · have : new = [] := by
      rcases faultSet_mem (suffix_mem h) with h | rfl
      · exact writesFault_unfolds h hu
      · exact hu
    subst this
    exact .inr (.inr (.inr (.inr (.inr ⟨code, d, hc, suffix_tail h⟩))))

/-- What may be left of a best-effort tick is closed under performing an entry (42_be_consumer.md R261). -/
theorem beLeft_step {k} {op : Op} {rest new} (h : beTickLeft k (op :: rest)) (hu : op.unfolds new) : beTickLeft k (new ++ rest) := by
  rcases h with h | h | h | h | h | ⟨i, sk, h | h⟩ <;> cases h
  · rcases hu with rfl | rfl | ⟨i, rfl⟩
    · exact .inl rfl
    · exact .inr (.inr (.inl rfl))
    · exact .inr (.inr (.inr (.inr (.inr ⟨i, false, .inl rfl⟩))))
  · cases hu; exact .inr (.inr (.inr (.inl rfl)))
  · rcases hu with rfl | ⟨i, rfl⟩
    · exact .inl rfl
    · exact .inr (.inr (.inr (.inr (.inr ⟨i, true, .inl rfl⟩))))
  · cases hu; exact .inl rfl
  · rcases hu with rfl | rfl | rfl
    · exact .inl rfl
    · exact .inr (.inr (.inr (.inr (.inr ⟨i, sk, .inr rfl⟩))))
    · exact .inr (.inr (.inr (.inr (.inl rfl))))
  · cases hu; exact .inl rfl

/-- A suffix of entries that unfold to nothing stays a suffix. -/
theorem suffix_step {op : Op} {rest new l : List Op} (h : op :: rest <:+ l)
    (hl : ∀ o ∈ l, o.unfolds = fun new => new = []) (hu : op.unfolds new) : new ++ rest <:+ l := by
  have := hl op (suffix_mem h)
  rw [this] at hu
  cases hu
  exact suffix_tail h

theorem writesSample_flat {o : Op} (h : o.writesSample = true) : o.unfolds = fun new => new = [] := by
  cases o <;> first | rfl | cases h
theorem writesFault_flat {o : Op} (h : o.writesFault = true) : o.unfolds = fun new => new = [] := by
  cases o <;> first | rfl | cases h

/-- What may be left of a producer tick is closed under performing an entry (45_producer.md R340). -/
theorem prodLeft_step {op : Op} {rest new} (h : prodTickLeft (op :: rest)) (hu : op.unfolds new) : prodTickLeft (new ++ rest) := by
  obtain ⟨x, ⟨front, h1, h2⟩ | ⟨front, h1, h2⟩ | h⟩ := h
  · cases front with
    | nil =>
      cases h2
      rcases hu with rfl | rfl
      · exact ⟨x, .inr (.inr (List.suffix_refl _))⟩
      · exact ⟨x, .inr (.inl ⟨[.hrtLag 0], .inr (.inl rfl), rfl⟩)⟩
    | cons o front =>
      simp only [List.cons_append, List.cons.injEq] at h2
      obtain ⟨rfl, rfl⟩ := h2
      have : new = [] := writesSample_unfolds (pushLeft_mem h1 _ (by simp)) hu
      subst this
      obtain ⟨n, y, h1⟩ := h1
      exact ⟨x, .inl ⟨front, ⟨n, y, suffix_tail h1⟩, rfl⟩⟩
  · cases front with
    | nil =>
      cases h2; cases hu
      exact ⟨x, .inr (.inr (suffix_tail (List.suffix_refl _)))⟩
    | cons o front =>
      simp only [List.cons_append, List.cons.injEq] at h2
      obtain ⟨rfl, rfl⟩ := h2
      refine ⟨x, .inr (.inl ⟨new ++ front, hrtLeft_step h1 hu, by simp⟩)⟩
  · exact ⟨x, .inr (.inr (suffix_step h (by simp; (repeat' apply And.intro) <;> rfl) hu))⟩

/-- What may be left of a command, less one entry and with what that entry unfolds to, may be left of it. -/
theorem mayBeLeft_step {i : Instr} {op : Op} {rest new} (h : mayBeLeft i (op :: rest)) (hu : op.unfolds new) :
    mayBeLeft i (new ++ rest) := by
  cases i <;> simp only [mayBeLeft] at h ⊢
  case push => 
    obtain ⟨n, x, h⟩ := h
    exact ⟨n, x, suffix_step h (fun o ho => writesSample_flat (pushLeft_mem ⟨n, x, List.suffix_refl _⟩ o ho)) hu⟩
  case pushRaw a => exact suffix_step h (fun o ho => writesSample_flat (writeSlotOps_mem ho)) hu
  case flush => 
    obtain ⟨n, h⟩ := h
    exact ⟨n, suffix_step h (fun o ho => writesSample_flat (flushPendingOps_mem ho)) hu⟩
  case read a =>
    rcases h with h | h | h <;> cases h
    · rcases hu with rfl | rfl
      · exact .inl rfl
      · exact .inr (.inr rfl)
    · cases hu; exact .inl rfl
  case hrtTick k => exact hrtLeft_step h hu
  case beTick k => exact beLeft_step h hu
  case prodTick => exact prodLeft_step h hu
  case fltSet a b => exact suffix_step h (by simp [faultSetNumberOps]; (repeat' apply And.intro) <;> rfl) hu
  case fltClear => exact suffix_step h (by simp [faultClearOps]; (repeat' apply And.intro) <;> rfl) hu
  case beDropped => cases h
  case iamCfg => cases h
  case iamTick => cases h
  all_goals exact suffix_step h (by simp; (repeat' apply And.intro) <;> rfl) hu

/-- Only a hard-RT tick or a producer tick comes to answer FAULT. -/
def mayFault (i : Instr) : Prop := (∃ k, i = .hrtTick k) ∨ ∃ a b, i = .prodTick a b

/-- An entry of a command makes its kind FAULT only if the command is a hard-RT tick or a producer tick. -/
theorem perform_kind {i : Instr} {op : Op} {rest} {a : Agent} {th : Thread} {s : State}
    (h : mayBeLeft i (op :: rest)) (hk : th.kind = .fault → mayFault i)
    (hf : (op.perform a { th with ops := rest } s).1.kind = .fault) : mayFault i := by
  by_contra hm
  have hk' : th.kind ≠ .fault := fun e => hm (hk e)
  have hne : (∀ k, op ≠ .hrtFlag k) ∧ (∀ v, op ≠ .result .fault v) := by
    constructor
    · rintro k rfl
      cases i <;> simp only [mayBeLeft] at h
      case hrtTick k => exact hm (.inl ⟨_, rfl⟩)
      case prodTick => exact hm (.inr ⟨_, _, rfl⟩)
      case push => exact absurd (pushLeft_mem h (.hrtFlag k) (by simp)) (by simp [Op.writesSample])
      case pushRaw => exact absurd (writeSlotOps_mem (suffix_mem h)) (by simp [Op.writesSample])
      case flush => obtain ⟨n, h⟩ := h; exact absurd (flushPendingOps_mem (suffix_mem h)) (by simp [Op.writesSample])
      case read => simp at h
      case beTick => simp [beTickLeft] at h
      case beDropped => cases h
      case iamCfg => cases h
      case iamTick => cases h
      all_goals exact absurd (suffix_mem h) (by simp [faultSetNumberOps, faultClearOps])
    · rintro k rfl
      cases i <;> simp only [mayBeLeft] at h
      case hrtTick k => exact hm (.inl ⟨_, rfl⟩)
      case prodTick => exact hm (.inr ⟨_, _, rfl⟩)
      case push => exact absurd (pushLeft_mem h (.result .fault k) (by simp)) (by simp [Op.writesSample])
      case pushRaw => exact absurd (writeSlotOps_mem (suffix_mem h)) (by simp [Op.writesSample])
      case flush => obtain ⟨n, h⟩ := h; exact absurd (flushPendingOps_mem (suffix_mem h)) (by simp [Op.writesSample])
      case read => simp at h
      case beTick => simp [beTickLeft] at h
      case beDropped => cases h
      case iamCfg => cases h
      case iamTick => cases h
      all_goals exact absurd (suffix_mem h) (by simp [faultSetNumberOps, faultClearOps])
  cases op <;> simp only [Op.perform, runReadLoad, runSlotCopy, runHrtInit, runHrtLag, runHrtOverrun,
    runHrtResync, runBeInit, runBeLag, runBeSkip, runBeAgain, runBeJump, runFaultCheck, Thread.withResult, Thread.prepend] at hf <;>
    try first | exact hk' hf | (split at hf <;> first | exact hk' hf | cases hf)
  case result k v => subst hf; exact hne.2 v rfl
  case readLoad i r =>
    split at hf
    · cases r with
      | plain => cases hf
      | hrt k => exact hk' hf
      | be k sk => cases sk <;> first | exact hk' hf | cases hf
    · exact hk' hf
  case slotCopy i r => cases r <;> cases hf
  case hrtFlag k => exact hne.1 k rfl
  case hrtLag k => split at hf <;> first | exact hk' hf | (split at hf <;> first | exact hk' hf | cases hf)
  case beLag k => split at hf <;> first | cases hf | (split at hf <;> exact hk' hf)
  all_goals cases hf

/-- Performing an entry of what is left of a command leaves what may be left of it. -/
theorem isLeftOf_step {i : Instr} {op : Op} {rest} {a : Agent} {th : Thread} {s : State} (ho : th.ops = op :: rest)
    (h : th.isLeftOf i) : (op.perform a { th with ops := rest } s).1.isLeftOf i := by
  obtain ⟨h1, h2⟩ := h
  rw [ho] at h1
  obtain ⟨new, hu, e⟩ := perform_ops op a { th with ops := rest } s
  exact ⟨by rw [e]; exact mayBeLeft_step h1 hu, fun hf => perform_kind h1 h2 hf⟩

/-- What a command starts with may be left of it. -/
theorem body_left (s : State) (i : Instr) : (bodyOf s i).1.isLeftOf i := by
  have hk : (bodyOf s i).1.kind = .ok := by
    cases i <;> simp [bodyOf, Thread.start, State.prodTickBody]
  refine ⟨?_, fun h => by rw [hk] at h; cases h⟩
  cases i <;> simp only [mayBeLeft]
  case push a =>
    simp only [bodyOf, Thread.start, State.pushBody]
    split
    · exact ⟨0, 0, List.nil_suffix⟩
    · exact ⟨_, _, List.suffix_refl _⟩
  case flush => exact ⟨_, List.suffix_refl _⟩
  case read a => exact .inr (.inl rfl)
  case hrtTick k => exact .inl rfl
  case beTick k => exact .inr (.inl rfl)
  case beDropped => rfl
  case iamCfg => rfl
  case iamTick => rfl
  case prodTick a b =>
    rw [prodTick_ops]
    refine ⟨_, .inl ⟨_, ?_, rfl⟩⟩
    unfold State.pushBody
    split
    · exact ⟨0, 0, List.nil_suffix⟩
    · exact ⟨_, _, List.suffix_refl _⟩
  all_goals exact List.suffix_refl _

/-- Every entry of what may be left of a command satisfies what its opening entries satisfy, if unfolding keeps it. -/
theorem mayBeLeft_closed {P : Op → Prop} (hP : Closed P) {i : Instr} (h0 : ∀ o, opening i o → P o) {ops}
    (h : mayBeLeft i ops) : ∀ o ∈ ops, P o := by
  have hrt : ∀ k ops, P (.hrtFlag k) → hrtTickLeft k ops → ∀ o ∈ ops, P o := by
    intro k ops h1 h o ho
    have h2 : P (.hrtLag k) := hP _ [.hrtLag k] h1 (.inr rfl) _ (by simp)
    have h3 : P (.hrtOverrun k) := hP _ [.hrtOverrun k] h2 (.inr (.inl rfl)) _ (by simp)
    have h4 : ∀ i, P (.readLoad i (.hrt k)) := fun i => hP _ [.readLoad i (.hrt k)] h3 (.inl ⟨i, rfl⟩) _ (by simp)
    have h5 : ∀ i, P (.slotCopy i (.hrt k)) := fun i => hP _ [.slotCopy i (.hrt k)] (h4 i) (.inl rfl) _ (by simp)
    rcases h with rfl | rfl | rfl | ⟨i, rfl⟩ | ⟨i, rfl⟩ | ⟨code, d, rfl | rfl, h⟩
    · simp at ho; subst ho; exact h1
    · simp at ho; subst ho; exact h2
    · simp at ho; subst ho; exact h3
    · simp at ho; subst ho; exact h4 i
    · simp at ho; subst ho; exact h5 i
    · exact hP _ _ h2 (.inr (.inr ⟨d, rfl⟩)) _ (h.subset ho)
    · exact hP _ _ h3 (.inr ⟨d, rfl⟩) _ (h.subset ho)
  intro o ho
  cases i <;> simp only [mayBeLeft] at h
  case push => exact h0 _ (pushLeft_mem h o ho)
  case pushRaw => exact h0 _ (writeSlotOps_mem (h.subset ho))
  case flush => obtain ⟨n, h⟩ := h; exact h0 _ (flushPendingOps_mem (h.subset ho))
  case read a =>
    have h1 := h0 _ (show opening (.read a) (.readLoad (operandWord a) .plain) from rfl)
    rcases h with rfl | rfl | rfl
    · cases ho
    · simp at ho; subst ho; exact h1
    · simp at ho; subst ho; exact hP _ [.slotCopy _ .plain] h1 (.inr rfl) _ (by simp)
  case hrtTick k => exact hrt k ops (h0 _ rfl) h o ho
  case beTick k =>
    have h1 : P (.beLag k) := h0 _ rfl
    have h2 : P (.beSkip k) := hP _ [.beSkip k] h1 (.inr (.inl rfl)) _ (by simp)
    have h3 : P (.beAgain k) := hP _ [.beAgain k] h2 rfl _ (by simp)
    have h4 : ∀ i sk, P (.readLoad i (.be k sk)) := by
      intro i sk; cases sk
      · exact hP _ [.readLoad i (.be k false)] h1 (.inr (.inr ⟨i, rfl⟩)) _ (by simp)
      · exact hP _ [.readLoad i (.be k true)] h3 (.inr ⟨i, rfl⟩) _ (by simp)
    rcases h with rfl | rfl | rfl | rfl | rfl | ⟨i, sk, rfl | rfl⟩
    · cases ho
    · simp at ho; subst ho; exact h1
    · simp at ho; subst ho; exact h2
    · simp at ho; subst ho; exact h3
    · simp at ho; subst ho; exact hP _ [.beJump k] (h4 0 true) (.inr (.inr rfl)) _ (by simp)
    · simp at ho; subst ho; exact h4 i sk
    · simp at ho; subst ho; exact hP _ [.slotCopy i (.be k sk)] (h4 i sk) (.inr (.inl rfl)) _ (by simp)
  case fltSet a b =>
    have := h.subset ho
    simp only [faultSetNumberOps, List.mem_cons, List.not_mem_nil, or_false] at this
    rcases this with rfl | rfl | rfl | rfl <;> exact h0 _ (by simp [opening, Op.writesFault])
  case fltClear =>
    have := h.subset ho
    simp only [faultClearOps, List.mem_cons, List.not_mem_nil, or_false] at this
    rcases this with rfl | rfl | rfl <;> exact h0 _ (by simp [opening, Op.writesFault])
  case prodTick a b =>
    have h1 : P (.hrtFlag 0) := h0 _ (.inr (.inl rfl))
    have h2 : P .latch := h0 _ (.inr (.inr (.inl rfl)))
    have h3 : ∀ x, P (.faultCheck x) := fun x => h0 _ (.inr (.inr (.inr ⟨x, rfl⟩)))
    obtain ⟨x, ⟨front, g1, rfl⟩ | ⟨front, g1, rfl⟩ | h⟩ := h
    · rcases List.mem_append.1 ho with ho | ho
      · exact h0 _ (.inl (pushLeft_mem g1 o ho))
      · simp at ho; rcases ho with rfl | rfl | rfl; exacts [h1, h2, h3 x]
    · rcases List.mem_append.1 ho with ho | ho
      · exact hrt 0 _ h1 g1 o ho
      · simp at ho; rcases ho with rfl | rfl; exacts [h2, h3 x]
    · have := h.subset ho
      simp at this; rcases this with rfl | rfl; exacts [h2, h3 x]
  case beDropped => subst h; cases ho
  case iamCfg => subst h; cases ho
  case iamTick => subst h; cases ho
  case strmInit => 
    have := h.subset ho
    simp at this; exact h0 _ this
  all_goals
    have := h.subset ho
    simp at this; exact h0 _ this

/-! ### Steps that run a command -/

/-- The next step runs command `i` of agent `g`: it issues it, or it goes on with what is left of it. -/
theorem step_cases (s t : State) (g : Agent) (i : Instr) (h : s.nextRuns g i) (hs : step s = .next t) :
    (∃ slice rest cs, slice.agent = g ∧ (s.port g).thread = none ∧
      exec i ((s.serving slice rest).setInbox g cs) = .next t) ∨
    (∃ slice rest th, slice.agent = g ∧ (s.port g).thread = some th ∧ th.isLeftOf i ∧
      (roleOf i).admits s.params.nc g ∧ t = (s.serving slice rest).resume g th) := by
  obtain ⟨slice, rest, h1, rfl, h3, h4⟩ := h
  have ht : ((s.serving slice rest).port slice.agent).thread = (s.port slice.agent).thread := rfl
  simp only [step, h1, h3, if_true, serve, ht] at hs
  cases hth : (s.port slice.agent).thread with
  | some th =>
    rw [hth] at h4 hs
    simp only [] at hs
    injection hs with hs
    exact .inr ⟨slice, rest, th, rfl, rfl, h4.1, h4.2, hs.symm⟩
  | none =>
    rw [hth] at h4 hs
    obtain ⟨c, cs, e1, e2⟩ := h4
    have : (s.serving slice rest).inbox slice.agent = c :: cs := e1
    simp only [this, e2] at hs
    exact .inl ⟨slice, rest, cs, rfl, rfl, hs⟩

/-- What every entry keeps, a command that goes on keeps. -/
theorem resume_track (i : Instr) (g : Agent) (th : Thread) (s : State) (P : Op → Prop) (I : State → Prop)
    (hl : th.isLeftOf i) (hP : Closed P) (h0 : ∀ o, opening i o → P o)
    (hport : ∀ u p, I u → I (u.setPort g p)) (hI : I s) (hspend : ∀ s, I s → I s.spend)
    (hstep : ∀ op th u, P op → I u → I (op.perform g th u).2) : I (s.resume g th) := by
  obtain ⟨th', s', ⟨h1, h2⟩, hh⟩ := drive_induct g (fun th u => th.isLeftOf i ∧ I u)
    (fun th u ⟨a, b⟩ => ⟨a, hspend u b⟩)
    (fun op rest th u ho ⟨a, b⟩ => ⟨isLeftOf_step ho a, hstep op _ u (mayBeLeft_closed hP h0 a.1 op (by simp [ho])) b⟩)
    sliceFuel th (s.setPort g { s.port g with thread := none }) ⟨hl, hport _ _ hI⟩
  unfold State.resume
  rcases hh with ⟨-, e⟩ | e <;> rw [e]
  · exact hport _ _ h2
  · exact hport _ _ h2

/-- A run of what is left of a command ends answered or parked, with what may be left of it, and keeps what every entry keeps. -/
theorem drive_left (i : Instr) (g : Agent) (n : Nat) (th : Thread) (s : State) (h : th.isLeftOf i) (I : State → Prop)
    (hI : I s) (hspend : ∀ u, I u → I u.spend) (hstep : ∀ (op : Op) th u, I u → I (op.perform g th u).2) :
    ∃ th' s', th'.isLeftOf i ∧ I s' ∧ (drive g n th s = s'.finish g th' ∨ drive g n th s = s'.park g th') := by
  obtain ⟨th', s', ⟨h1, h2⟩, h3⟩ := drive_induct g (fun th u => th.isLeftOf i ∧ I u) (fun th u ⟨a, b⟩ => ⟨a, hspend u b⟩)
    (fun op rest th u ho ⟨a, b⟩ => ⟨isLeftOf_step ho a, hstep op _ u b⟩) n th s ⟨h, hI⟩
  exact ⟨th', s', h1, h2, h3.imp And.right id⟩

end Sys2Proof.Machine
end

