-- ==== Sys2Proof/Laws/Runs.lean ====
section
/-!
SUPPORT. What each entry does to a command whose agent is not switched out, entry by entry: one lemma per entry and per branch
of its pseudocode. `Like` says what a run that only loads and moves cursors keeps.
-/

namespace Sys2Proof.Machine

/-! ### One entry, and the end -/

/-- An entry of a command whose agent is not switched out is performed. -/
theorem run_op (a : Agent) (n : Nat) (op : Op) (rest : List Op) (k : Kind) (v : Word64) (o : Bool) (s : State)
    (hb : s.turn.budget = none) :
    drive a (n + 1) { ops := op :: rest, kind := k, value := v, overlapped := o } s =
      drive a n (op.perform a { ops := rest, kind := k, value := v, overlapped := o } s).1
        (op.perform a { ops := rest, kind := k, value := v, overlapped := o } s).2 :=
  drive_cons a n op rest _ s rfl hb

/-- A command with nothing left is answered. -/
theorem run_done (a : Agent) (n : Nat) (k : Kind) (v : Word64) (o : Bool) (s : State) :
    drive a (n + 1) { ops := [], kind := k, value := v, overlapped := o } s = s.respond a { status := .ok, kind := k, v := v } :=
  drive_done a n _ s rfl

/-! ### Loads -/

/-- A context does not decide what a load of W returns. -/
theorem acqLoadW_setCtx (s : State) (a : Agent) (k : CtxIdx) (c : Context) :
    (s.setCtx k c).acqLoadW a = ((s.acqLoadW a).1, (s.acqLoadW a).2.setCtx k c) := rfl

/-- The contexts do not decide what the next loads of W return. -/
theorem loadsW_setCtx {a : Agent} {k : CtxIdx} {c : Context} {ws : List Word32} {s : State} (h : s.loadsW a ws) :
    (s.setCtx k c).loadsW a ws := by
  induction ws generalizing s with
  | nil => trivial
  | cons w ws ih => exact ⟨h.1, by rw [acqLoadW_setCtx]; exact ih h.2⟩

/-- One load of W and what it returns. -/
theorem loadsW_one (s : State) (a : Agent) : s.loadsW a [(s.acqLoadW a).1] := ⟨rfl, trivial⟩

@[simp] theorem ctx_loadW (s : State) (a) (k) : (s.acqLoadW a).2.ctx k = s.ctx k := rfl

@[simp] theorem ctx_loadActive (s : State) (a) (k) : (s.acqLoadActive a).2.ctx k = s.ctx k := rfl

@[simp] theorem ctx_respond (s : State) (a r) (k) : (s.respond a r).ctx k = s.ctx k := rfl

@[simp] theorem slot_loadW (s : State) (a) (k) : (s.acqLoadW a).2.slot k = s.slot k := rfl

@[simp] theorem slotOf_loadW (s : State) (a) (k) : (s.acqLoadW a).2.slotOf k = s.slotOf k := rfl

@[simp] theorem slot_setCtx (s : State) (a c) (k) : (s.setCtx a c).slot k = s.slot k := rfl

@[simp] theorem slotOf_setCtx (s : State) (a c) (k) : (s.setCtx a c).slotOf k = s.slotOf k := rfl

@[simp] theorem slot_loadActive (s : State) (a) (k) : (s.acqLoadActive a).2.slot k = s.slot k := rfl

@[simp] theorem slotOf_loadActive (s : State) (a) (k) : (s.acqLoadActive a).2.slotOf k = s.slotOf k := rfl

@[simp] theorem bud_setCtx (s : State) (k c) : (s.setCtx k c).turn.budget = s.turn.budget := rfl

/-- A view does not decide whether a STRM_INIT is in progress. -/
theorem strmInitRunning_setView (s : State) (a : Agent) (v : View) : (s.setView a v).strmInitRunning = s.strmInitRunning := by
  unfold State.strmInitRunning
  by_cases h : a = .producer
  · subst h; simp
  · rw [State.port_setView_other _ _ (fun e => h e.symm)]

@[simp] theorem copyDraws_loadW (s : State) (a : Agent) (o i) : (s.acqLoadW a).2.copyDraws o i = s.copyDraws o i := by
  unfold State.copyDraws
  have : (s.acqLoadW a).2.strmInitRunning = s.strmInitRunning := strmInitRunning_setView s.dropAge a _
  rw [this]; rfl

@[simp] theorem copyDraws_loadActive (s : State) (a : Agent) (o i) : (s.acqLoadActive a).2.copyDraws o i = s.copyDraws o i := by
  unfold State.copyDraws
  have : (s.acqLoadActive a).2.strmInitRunning = s.strmInitRunning := strmInitRunning_setView s.dropAge a _
  rw [this]; rfl

@[simp] theorem copyDraws_setCtx (s : State) (k c) (o i) : (s.setCtx k c).copyDraws o i = s.copyDraws o i := rfl

/-- A copy that does not race gives the slot. -/
theorem copySlot_clear (s : State) (o i) (h : s.copyDraws o i = false) : s.copySlot o i = (s.slot (s.slotOf i), s) := by
  simp [State.copySlot, h]

/-- A copy that races draws. -/
theorem copySlot_draw (s : State) (o i) (h : s.copyDraws o i = true) : s.copySlot o i = (Config.slotDraw s.draws, { s with draws := s.draws + 1 }) := by
  simp [State.copySlot, h]

/-- An admitted command whose run is a response has ended with it. -/
theorem ends_of (i : Instr) (s u : State) (k v) (had : s.admitsCommand i) (post : State → Prop)
    (h : drive s.turn.agent sliceFuel (bodyOf s i).1 (bodyOf s i).2 = u.respond s.turn.agent { status := .ok, kind := k, v := v })
    (hp : exec i s = .next (u.respond s.turn.agent { status := .ok, kind := k, v := v }) → post (u.respond s.turn.agent { status := .ok, kind := k, v := v })) :
    Ends s (exec i s) (okResponse k v) post := by
  have he := exec_admitted s i had
  rw [h] at he
  exact ⟨_, he, by simp [State.issuer], by simp [State.issuer, okResponse], hp he⟩

/-! ### Runs that keep everything but views, ages and cursors -/

/-- `u` differs from `s` at most in views, ages and contexts. -/
structure Like (a : Agent) (s u : State) : Prop where
  w : u.w = s.w
  params : u.params = s.params
  slots : u.slots = s.slots
  draws : u.draws = s.draws
  copy : ∀ o i, u.copyDraws o i = s.copyDraws o i
  budget : u.turn.budget = none
  active : u.active = s.active
  code : u.code = s.code
  data : u.data = s.data
  count : u.count = s.count
  seenA : (s.view a).active ≤ (u.view a).active
  seenW : (s.view a).w ≤ (u.view a).w

theorem Like.refl {a : Agent} {s : State} (hb : s.turn.budget = none) : Like a s s :=
  ⟨rfl, rfl, rfl, rfl, fun _ _ => rfl, hb, rfl, rfl, rfl, rfl, Nat.le_refl _, Nat.le_refl _⟩

theorem Like.trans {a : Agent} {s u v : State} (h : Like a s u) (k : Like a u v) : Like a s v :=
  ⟨k.w.trans h.w, k.params.trans h.params, k.slots.trans h.slots, k.draws.trans h.draws, fun o i => (k.copy o i).trans (h.copy o i), k.budget,
    k.active.trans h.active, k.code.trans h.code, k.data.trans h.data, k.count.trans h.count, h.seenA.trans k.seenA,
    h.seenW.trans k.seenW⟩

theorem loadW_like {a : Agent} {s : State} (hb : s.turn.budget = none) : Like a s (s.acqLoadW a).2 :=
  ⟨rfl, rfl, rfl, rfl, fun o i => copyDraws_loadW s a o i, hb, rfl, rfl, rfl, rfl, by
    simp only [State.acqLoadW, State.view_setView, View.join, View.zero]; simp, by
    simp only [State.acqLoadW, State.view_setView, View.join, View.zero]; omega⟩

theorem loadActive_like {a : Agent} {s : State} (hb : s.turn.budget = none) : Like a s (s.acqLoadActive a).2 :=
  ⟨rfl, rfl, rfl, rfl, fun o i => copyDraws_loadActive s a o i, hb, rfl, rfl, rfl, rfl, by
    simp only [State.acqLoadActive, State.view_setView, View.join, View.zero]; omega, by
    simp only [State.acqLoadActive, State.view_setView, View.join, View.zero]; omega⟩

theorem setCtx_like {a : Agent} {s : State} (k c) (hb : s.turn.budget = none) : Like a s (s.setCtx k c) :=
  ⟨rfl, rfl, rfl, rfl, fun _ _ => rfl, hb, rfl, rfl, rfl, rfl, Nat.le_refl _, Nat.le_refl _⟩

variable {a : Agent} {s u : State} {n : Nat} {rest : List Op} {kd : Kind} {v : Word64} {o : Bool} {w : Word32} {ws : List Word32}

theorem Like.loadW (h : Like a s u) : Like a s (u.acqLoadW a).2 := h.trans (loadW_like h.budget)

theorem Like.setCtx (h : Like a s u) (k c) : Like a s (u.setCtx k c) := h.trans (setCtx_like k c h.budget)

/-! ### The entries of the consumers -/

theorem ctx_of_ctxs {x u : State} (h : x.ctxs = u.ctxs) (k) : x.ctx k = u.ctx k := State.ctx_congr h k

theorem slot_like (h : Like a s u) (i : LogIdx) : u.slot (u.slotOf i) = s.slot (s.slotOf i) := by
  unfold State.slot State.slotOf; rw [h.params, h.slots]

theorem run_hrtFlag (k : CtxIdx) (h : Like a s u) (hl : (u.acqLoadActive a).2.loadsW a ws) (hA : (u.acqLoadActive a).1 = false) :
    ∃ x, Like a s x ∧ x.loadsW a ws ∧ x.ctxs = u.ctxs ∧ drive a (n + 1) ⟨.hrtFlag k :: rest, kd, v, o⟩ u = drive a n ⟨.hrtLag k :: rest, kd, v, o⟩ x :=
  ⟨_, h.trans (loadActive_like h.budget), hl, rfl, by
    rw [run_op _ _ _ _ _ _ _ _ h.budget]; simp [Op.perform, runHrtFlag, hA, Thread.prepend]⟩

theorem run_hrtLag_go (k : CtxIdx) (h : Like a s u) (hl : u.loadsW a (w :: ws)) (h1 : ¬ (u.ctx k).maxLag < w - (u.ctx k).cur) (h2 : w - (u.ctx k).cur ≠ 0#32) :
    ∃ x, Like a s x ∧ x.loadsW a ws ∧ x.ctxs = u.ctxs ∧ drive a (n + 1) ⟨.hrtLag k :: rest, kd, v, o⟩ u = drive a n ⟨.hrtOverrun k :: rest, kd, v, o⟩ x :=
  ⟨_, h.loadW, hl.2, rfl, by
    rw [run_op _ _ _ _ _ _ _ _ h.budget]; simp only [Op.perform, runHrtLag, hl.1, Thread.prepend, h1, h2, if_false]; rfl⟩

theorem run_hrtLag_none (k : CtxIdx) (h : Like a s u) (hl : u.loadsW a (w :: ws)) (h1 : ¬ (u.ctx k).maxLag < w - (u.ctx k).cur) (h2 : w - (u.ctx k).cur = 0#32) :
    ∃ x, Like a s x ∧ x.loadsW a ws ∧ x.ctxs = u.ctxs ∧ drive a (n + 1) ⟨.hrtLag k :: rest, kd, v, o⟩ u = drive a n ⟨rest, .noData, 0, o⟩ x :=
  ⟨_, h.loadW, hl.2, rfl, by
    rw [run_op _ _ _ _ _ _ _ _ h.budget]; simp only [Op.perform, runHrtLag, hl.1, Thread.withResult]; rw [if_neg h1, if_pos h2]⟩

theorem run_hrtLag_lat (k : CtxIdx) (h : Like a s u) (hl : u.loadsW a (w :: ws)) (h1 : (u.ctx k).maxLag < w - (u.ctx k).cur) :
    ∃ x, Like a s x ∧ x.loadsW a ws ∧ x.ctxs = u.ctxs ∧ drive a (n + 1) ⟨.hrtLag k :: rest, kd, v, o⟩ u =
      drive a n ⟨.storeCode 2 :: .storeData (w - (u.ctx k).cur) :: .countFault :: .storeActive true :: .result .fault 0 :: rest, kd, v, o⟩ x :=
  ⟨_, h.loadW, hl.2, rfl, by
    rw [run_op _ _ _ _ _ _ _ _ h.budget]; simp only [Op.perform, runHrtLag, hl.1, Thread.prepend, h1, if_true]; rfl⟩

theorem run_hrtOverrun_go (k : CtxIdx) (h : Like a s u) (hl : u.loadsW a (w :: ws)) (h1 : ¬ s.params.cap < w - (u.ctx k).cur) :
    ∃ x, Like a s x ∧ x.loadsW a ws ∧ x.ctxs = u.ctxs ∧ drive a (n + 1) ⟨.hrtOverrun k :: rest, kd, v, o⟩ u =
      drive a n ⟨.readLoad (u.ctx k).cur (.hrt k) :: rest, kd, v, o⟩ x :=
  ⟨_, h.loadW, hl.2, rfl, by
    rw [run_op _ _ _ _ _ _ _ _ h.budget]; simp only [Op.perform, runHrtOverrun, hl.1, Thread.prepend, h.params, h1, if_false]; rfl⟩

theorem run_hrtOverrun_lat (k : CtxIdx) (h : Like a s u) (hl : u.loadsW a (w :: ws)) (h1 : s.params.cap < w - (u.ctx k).cur) :
    ∃ x, Like a s x ∧ x.loadsW a ws ∧ x.ctxs = u.ctxs ∧ drive a (n + 1) ⟨.hrtOverrun k :: rest, kd, v, o⟩ u =
      drive a n ⟨.storeCode 1 :: .storeData (w - (u.ctx k).cur) :: .countFault :: .storeActive true :: .result .fault 0 :: rest, kd, v, o⟩ x :=
  ⟨_, h.loadW, hl.2, rfl, by
    rw [run_op _ _ _ _ _ _ _ _ h.budget]; simp only [Op.perform, runHrtOverrun, hl.1, Thread.prepend, h.params, h1, if_true]; rfl⟩

theorem run_readLoad_in (i : LogIdx) (r : Reader) (h : Like a s u) (hl : u.loadsW a (w :: ws)) (h1 : w - i ≠ 0#32) (h2 : ¬ s.params.cap < w - i) :
    ∃ x, Like a s x ∧ x.loadsW a ws ∧ x.ctxs = u.ctxs ∧ drive a (n + 1) ⟨.readLoad i r :: rest, kd, v, o⟩ u =
      drive a n ⟨.slotCopy i r :: rest, kd, v, o⟩ x :=
  ⟨_, h.loadW, hl.2, rfl, by
    rw [run_op _ _ _ _ _ _ _ _ h.budget]; simp only [Op.perform, runReadLoad, hl.1, Thread.prepend, h.params, h1, h2, or_self, if_false]; rfl⟩

/-- A read outside the window. -/
theorem run_readLoad_fail (i : LogIdx) (r : Reader) (h : Like a s u) (hl : u.loadsW a (w :: ws))
    (h2 : w - i = 0#32 ∨ s.params.cap < w - i) :
    ∃ x, Like a s x ∧ x.loadsW a ws ∧ x.ctxs = u.ctxs ∧ drive a (n + 1) ⟨.readLoad i r :: rest, kd, v, o⟩ u =
      drive a n (readFailed r (w - i) ⟨rest, kd, v, o⟩ x).1 x :=
  ⟨_, h.loadW, hl.2, rfl, by
    rw [run_op _ _ _ _ _ _ _ _ h.budget]; simp only [Op.perform, runReadLoad, hl.1, h.params]; rw [if_pos h2, readFailed_state]⟩

theorem run_slotCopy_hrt (i : LogIdx) (k : CtxIdx) (h : Like a s u) (h1 : s.copyDraws o i = false) :
    ∃ x, Like a s x ∧ x.ctx k = { u.ctx k with cur := (u.ctx k).cur + 1 } ∧ drive a (n + 1) ⟨.slotCopy i (.hrt k) :: rest, kd, v, o⟩ u =
      drive a n ⟨rest, .ok, (s.slot (s.slotOf i)).zeroExtend 64, o⟩ x :=
  ⟨u.setCtx k { u.ctx k with cur := (u.ctx k).cur + 1 }, h.setCtx _ _, by simp, by
    rw [run_op _ _ _ _ _ _ _ _ h.budget]
    simp only [Op.perform, runSlotCopy_eq, copySlot_clear u o i ((h.copy o i).trans h1), readSucceeded, Thread.withResult, slot_like h]; rfl⟩

theorem run_slotCopy_be (i : LogIdx) (k : CtxIdx) (sk : Bool) (h : Like a s u) (h1 : s.copyDraws o i = false) :
    ∃ x, Like a s x ∧ x.ctx k = { u.ctx k with cur := (u.ctx k).cur + 1 } ∧ drive a (n + 1) ⟨.slotCopy i (.be k sk) :: rest, kd, v, o⟩ u =
      drive a n ⟨rest, .ok, (s.slot (s.slotOf i)).zeroExtend 64, o⟩ x :=
  ⟨u.setCtx k { u.ctx k with cur := (u.ctx k).cur + 1 }, h.setCtx _ _, by simp, by
    rw [run_op _ _ _ _ _ _ _ _ h.budget]
    simp only [Op.perform, runSlotCopy_eq, copySlot_clear u o i ((h.copy o i).trans h1), readSucceeded, Thread.withResult, slot_like h]; rfl⟩

theorem run_beLag_none (k : CtxIdx) (h : Like a s u) (hl : u.loadsW a (w :: ws)) (h2 : w - (u.ctx k).cur = 0#32) :
    ∃ x, Like a s x ∧ x.loadsW a ws ∧ x.ctxs = u.ctxs ∧ drive a (n + 1) ⟨.beLag k :: rest, kd, v, o⟩ u = drive a n ⟨rest, .noData, 0, o⟩ x :=
  ⟨_, h.loadW, hl.2, rfl, by
    rw [run_op _ _ _ _ _ _ _ _ h.budget]; simp only [Op.perform, runBeLag, hl.1, Thread.withResult, h2, if_true]⟩

theorem run_beLag_go (k : CtxIdx) (h : Like a s u) (hl : u.loadsW a (w :: ws)) (h2 : w - (u.ctx k).cur ≠ 0#32)
    (h3 : ¬ (s.params.cap < w - (u.ctx k).cur ∨ 0#32 < (u.ctx k).thr ∧ (u.ctx k).thr < w - (u.ctx k).cur)) :
    ∃ x, Like a s x ∧ x.loadsW a ws ∧ x.ctxs = u.ctxs ∧ drive a (n + 1) ⟨.beLag k :: rest, kd, v, o⟩ u = drive a n ⟨.readLoad (u.ctx k).cur (.be k false) :: rest, kd, v, o⟩ x :=
  ⟨_, h.loadW, hl.2, rfl, by
    rw [run_op _ _ _ _ _ _ _ _ h.budget]; simp only [Op.perform, runBeLag, hl.1, Thread.prepend, h2, if_false, h.params]; rw [if_neg h3]; rfl⟩

theorem run_beLag_skip (k : CtxIdx) (h : Like a s u) (hl : u.loadsW a (w :: ws)) (h2 : w - (u.ctx k).cur ≠ 0#32)
    (h3 : (s.params.cap < w - (u.ctx k).cur ∨ 0#32 < (u.ctx k).thr ∧ (u.ctx k).thr < w - (u.ctx k).cur)) :
    ∃ x, Like a s x ∧ x.loadsW a ws ∧ x.ctxs = u.ctxs ∧ drive a (n + 1) ⟨.beLag k :: rest, kd, v, o⟩ u = drive a n ⟨.beSkip k :: rest, kd, v, o⟩ x :=
  ⟨_, h.loadW, hl.2, rfl, by
    rw [run_op _ _ _ _ _ _ _ _ h.budget]; simp only [Op.perform, runBeLag, hl.1, Thread.prepend, h2, if_false, h.params]; rw [if_pos h3]; rfl⟩

theorem run_beSkip_move (k : CtxIdx) (h : Like a s u) (hl : u.loadsW a (w :: ws)) (h3 : (u.ctx k).margin < w - (u.ctx k).cur) :
    ∃ x, Like a s x ∧ x.loadsW a ws ∧ x.ctx k = { u.ctx k with dropped := satAdd32 (u.ctx k).dropped (w - (u.ctx k).margin - (u.ctx k).cur), cur := w - (u.ctx k).margin } ∧
      drive a (n + 1) ⟨.beSkip k :: rest, kd, v, o⟩ u = drive a n ⟨.beAgain k :: rest, kd, v, o⟩ x :=
  ⟨_, h.loadW.setCtx k _, loadsW_setCtx hl.2, State.ctx_setCtx_same _ _ _, by
    rw [run_op _ _ _ _ _ _ _ _ h.budget]; simp only [Op.perform, runBeSkip, hl.1, Thread.prepend, h3, if_true]; rfl⟩

theorem run_beSkip_stay (k : CtxIdx) (h : Like a s u) (hl : u.loadsW a (w :: ws)) (h3 : ¬ (u.ctx k).margin < w - (u.ctx k).cur) :
    ∃ x, Like a s x ∧ x.loadsW a ws ∧ x.ctxs = u.ctxs ∧
      drive a (n + 1) ⟨.beSkip k :: rest, kd, v, o⟩ u = drive a n ⟨.beAgain k :: rest, kd, v, o⟩ x :=
  ⟨_, h.loadW, hl.2, rfl, by
    rw [run_op _ _ _ _ _ _ _ _ h.budget]; simp only [Op.perform, runBeSkip, hl.1, Thread.prepend, h3, if_false]; rfl⟩

theorem run_beAgain_none (k : CtxIdx) (h : Like a s u) (hl : u.loadsW a (w :: ws)) (h2 : w - (u.ctx k).cur = 0#32) :
    ∃ x, Like a s x ∧ x.loadsW a ws ∧ x.ctxs = u.ctxs ∧ drive a (n + 1) ⟨.beAgain k :: rest, kd, v, o⟩ u = drive a n ⟨rest, .noData, 0, o⟩ x :=
  ⟨_, h.loadW, hl.2, rfl, by
    rw [run_op _ _ _ _ _ _ _ _ h.budget]; simp only [Op.perform, runBeAgain, hl.1, Thread.withResult, h2, if_true]⟩

theorem run_beAgain_go (k : CtxIdx) (h : Like a s u) (hl : u.loadsW a (w :: ws)) (h2 : w - (u.ctx k).cur ≠ 0#32) :
    ∃ x, Like a s x ∧ x.loadsW a ws ∧ x.ctxs = u.ctxs ∧ drive a (n + 1) ⟨.beAgain k :: rest, kd, v, o⟩ u = drive a n ⟨.readLoad (u.ctx k).cur (.be k true) :: rest, kd, v, o⟩ x :=
  ⟨_, h.loadW, hl.2, rfl, by
    rw [run_op _ _ _ _ _ _ _ _ h.budget]; simp only [Op.perform, runBeAgain, hl.1, Thread.prepend, h2, if_false]; rfl⟩

theorem run_beJump (k : CtxIdx) (h : Like a s u) (hl : u.loadsW a (w :: ws))  :
    ∃ x, Like a s x ∧ x.loadsW a ws ∧ x.ctx k = { u.ctx k with cur := w, dropped := satAdd32 (u.ctx k).dropped 1#32 } ∧ drive a (n + 1) ⟨.beJump k :: rest, kd, v, o⟩ u = drive a n ⟨rest, .noData, 0, o⟩ x :=
  ⟨_, h.loadW.setCtx k _, loadsW_setCtx hl.2, State.ctx_setCtx_same _ _ _, by
    rw [run_op _ _ _ _ _ _ _ _ h.budget]; simp only [Op.perform, runBeJump, hl.1, Thread.withResult]⟩

theorem run_faultSet (c : BitVec 8) (d : Word32) (hb : u.turn.budget = none) :
    ∃ x : State, x.active.cur = 1 ∧ x.code.cur = c ∧ x.data.cur = d ∧ x.count.cur = u.count.cur + 1 ∧ x.ctxs = u.ctxs ∧ x.turn.budget = none ∧ x.draws = u.draws ∧
     drive a (n + 4) ⟨.storeCode c :: .storeData d :: .countFault :: .storeActive true :: rest, kd, v, o⟩ u = drive a n ⟨rest, kd, v, o⟩ x := by
  refine ⟨(((u.rlxStoreCode a c).rlxStoreData a d).fetchAddCount a).relStoreActive a true, rfl, rfl, rfl, rfl, rfl, hb, rfl, ?_⟩
  rw [run_op _ _ _ _ _ _ _ _ hb]; simp only [Op.perform]
  rw [run_op]; simp only [Op.perform]
  rw [run_op]; simp only [Op.perform]
  rw [run_op]; simp only [Op.perform]
  all_goals exact hb

/-! ### Slot writes -/

theorem wrote_nil (s t : State) (hw : t.w = s.w) (hp : t.pw = s.pw) (hs : t.slots = s.slots) : WroteSlots [] s t := by
  refine ⟨by simp [hw], by simp [hw], by simp, fun _ => hp, by simp, fun n _ => by simp [State.slot, hs]⟩

theorem wrote_snoc (vs : List Sample) (v : Sample) (s t u : State) (h : WroteSlots vs s t)
   (hw : u.w.cur = t.w.cur + 1#32) (hpast : u.w.past.map Prod.fst = t.w.cur :: t.w.past.map Prod.fst) (hpw : u.pw = u.w.cur)
   (hsl : ∀ n, u.slot n = if n = s.slotOf t.w.cur then v else t.slot n) : WroteSlots (vs ++ [v]) s u := by
  obtain ⟨h1, h2, h3, h4, h5, h6⟩ := h
  refine ⟨?_, ?_, fun _ => hpw, by simp, ?_, ?_⟩
  · rw [hw, h1]; simp [BitVec.ofNat_add]; ac_rfl
  · rw [hpast, h2, h1]; simp [List.range_succ]
  · intro k x hk hlast
    rw [hsl]
    by_cases hkl : k < vs.length
    · rw [List.getElem?_append_left hkl] at hk
      rw [if_neg, h5 k x hk]
      · intro m hm1 hm2; exact hlast m hm1 (by simp; omega)
      · have := hlast vs.length hkl (by simp)
        rw [← h1] at this; exact fun e => this e.symm
    · rw [List.getElem?_append_right (by omega)] at hk
      have : k = vs.length := by
        by_contra hne
        have : k - vs.length ≠ 0 := by omega
        cases hh : k - vs.length with
        | zero => omega
        | succ m => rw [hh] at hk; simp at hk
      subst this
      simp at hk
      rw [← h1, if_pos rfl, hk]
  · intro n hn
    rw [hsl, if_neg, h6 n (fun k hk => hn k (by simp; omega))]
    have := hn vs.length (by simp)
    rwa [← h1] at this

/-- The state after writing one slot. -/
def wroteOne (a : Agent) (v : Sample) (u : State) : State := ((u.slotWriteBegin).slotWriteEnd v).publish a

theorem run_writeSlot (a : Agent) (n : Nat) (v : Sample) (rest : List Op) (kd : Kind) (x : Word64) (o : Bool) (u : State) (hb : u.turn.budget = none) :
    drive a (n + 3) ⟨writeSlotOps v ++ rest, kd, x, o⟩ u = drive a n ⟨rest, kd, x, o⟩ (wroteOne a v u) := by
  show drive a (n + 3) ⟨.slotWriteBegin :: .slotWriteEnd v :: .publish :: rest, kd, x, o⟩ u = _
  rw [run_op _ _ _ _ _ _ _ _ hb]; simp only [Op.perform]
  rw [run_op]; simp only [Op.perform]
  rw [run_op]; simp only [Op.perform]
  · rfl
  all_goals exact hb

theorem wroteOne_wrote (vs : List Sample) (v : Sample) (a : Agent) (s t : State) (h : WroteSlots vs s t) (hpar : t.params = s.params) :
    WroteSlots (vs ++ [v]) s (wroteOne a v t) := by
  refine wrote_snoc vs v s t _ h rfl rfl rfl ?_
  intro n
  have : (wroteOne a v t).slot n = ((t.slotWriteBegin).slotWriteEnd v).slot n := rfl
  rw [this]
  unfold State.slotWriteEnd
  have e : t.slotWriteBegin.slotOf t.slotWriteBegin.w.cur = s.slotOf t.w.cur := State.slotOf_congr (t := s) hpar _
  rw [e]
  by_cases hn : n = s.slotOf t.w.cur
  · subst hn; simp
  · rw [State.slot_setSlot_other _ _ hn, if_neg hn]; rfl

theorem wrote_congr (vs : List Sample) (s t u : State) (h : WroteSlots vs s t) (h1 : u.w = t.w) (h2 : u.pw = t.pw) (h3 : u.slots = t.slots) : WroteSlots vs s u := by
  obtain ⟨a1, a2, a3, a4, a5, a6⟩ := h
  have hs : ∀ n, u.slot n = t.slot n := fun n => by simp [State.slot, h3]
  refine ⟨by rw [h1, a1], by rw [h1, a2], fun h => by rw [h2, h1, a3 h], fun h => by rw [h2, a4 h], fun k v h h' => by rw [hs, a5 k v h h'], fun n h => by rw [hs, a6 n h]⟩

theorem sameSample_iff (x y : Sample) : sameSample x y = true ↔ samplePaddles x = samplePaddles y ∧ sampleKey x = sampleKey y ∧ sampleAudio x = sampleAudio y := by
  simp [sameSample, and_assoc]

theorem satInc16_toNat (n : BitVec 16) : (satInc16 n).toNat = min (n.toNat + 1) 65535 := by
  unfold satInc16
  have := n.isLt
  split
  · rename_i h; rw [h]; rfl
  · rename_i h
    have : n.toNat ≠ 65535 := fun e => h (BitVec.eq_of_toNat_eq e)
    rw [BitVec.toNat_add]; simp; omega

end Sys2Proof.Machine
end

