-- ==== Sys2Proof/Laws/Compose.lean ====
section
/-!
SUPPORT. A command made of other commands (PROD_TICK, 45_producer.md R340): what a part does is the same whatever response lies on the
port and whatever comes after it.
-/

namespace Sys2Proof.Machine

/-- An entry that neither takes the latch nor belongs to a fault check or a STRM_INIT: what it does depends on its agent's port only
through the view, the loads and whether a command is in progress, and on what comes after it not at all. -/
def tame (op : Op) : Prop := op ≠ .latch ∧ (∀ x, op ≠ .faultCheck x) ∧ op ≠ .strmZero ∧ op ≠ .strmPublish

/-- A response and a view of one port can be written in either order. -/
theorem setView_respond (s : State) (a : Agent) (r v) : (s.respond a r).setView a v = (s.setView a v).respond a r := by
  simp [State.respond, State.setView]

/-- A response and the loaded positions of one port can be written in either order. -/
theorem setLoaded_respond (s : State) (a : Agent) (r v) : (s.respond a r).setLoaded a v = (s.setLoaded a v).respond a r := by
  simp [State.respond, State.setLoaded]

@[simp] theorem view_respond (s : State) (a : Agent) (r) : (s.respond a r).view a = s.view a := by simp [State.view]
@[simp] theorem loaded_respond (s : State) (a : Agent) (r) : (s.respond a r).loaded a = s.loaded a := by simp [State.loaded]

/-- A response changes nothing about the agent's next load of W. -/
theorem loadW_respond (s : State) (a : Agent) (r) :
    (s.respond a r).acqLoadW a = ((s.acqLoadW a).1, (s.acqLoadW a).2.respond a r) := by
  have e : (s.respond a r).dropAge = s.dropAge.respond a r := rfl
  simp only [State.acqLoadW, view_respond, e, setView_respond]
  rfl
/-- A response changes nothing about the agent's next load of ACTIVE. -/
theorem loadActive_respond (s : State) (a : Agent) (r) :
    (s.respond a r).acqLoadActive a = ((s.acqLoadActive a).1, (s.acqLoadActive a).2.respond a r) := by
  have e : (s.respond a r).dropAge = s.dropAge.respond a r := rfl
  simp only [State.acqLoadActive, view_respond, e, setView_respond]
  rfl

/-- A response to a port with no command in progress does not decide whether a STRM_INIT is running. -/
theorem strm_respond (s : State) (a : Agent) (r) (h : (s.port a).thread = none) :
    (s.respond a r).strmInitRunning = s.strmInitRunning := by
  unfold State.strmInitRunning
  by_cases hp : a = .producer
  · subst hp; rw [h]; simp
  · rw [State.port_respond_other _ _ (fun e => hp e.symm)]

/-- Nor whether a copy draws. -/
theorem draws_respond (s : State) (a : Agent) (r o i) (h : (s.port a).thread = none) :
    (s.respond a r).copyDraws o i = s.copyDraws o i := by
  unfold State.copyDraws; rw [strm_respond s a r h]; rfl

/-- Nor what a copy gives. -/
theorem copy_respond (s : State) (a : Agent) (r o i) (h : (s.port a).thread = none) :
    (s.respond a r).copySlot o i = ((s.copySlot o i).1, (s.copySlot o i).2.respond a r) := by
  unfold State.copySlot; rw [draws_respond s a r o i h]; split <;> rfl

/-- A response already on the port changes nothing about an entry, and the entry leaves it there. -/
theorem perform_respond (op : Op) (a : Agent) (th : Thread) (s : State) (r) (h : (s.port a).thread = none) (ht : tame op) :
    op.perform a th (s.respond a r) = ((op.perform a th s).1, (op.perform a th s).2.respond a r) := by
  obtain ⟨t1, t2, t3, t4⟩ := ht
  cases op <;> simp only [Op.perform, runReadLoad, runSlotCopy, runHrtInit, runHrtFlag, runHrtLag,
    runHrtOverrun, runHrtResync, runBeInit, runBeLag, runBeSkip, runBeAgain, runBeJump,
    loadW_respond, loadActive_respond, copy_respond _ _ _ _ _ h]
  case latch => exact absurd rfl t1
  case faultCheck x => exact absurd rfl (t2 x)
  case strmZero => exact absurd rfl t3
  case strmPublish => exact absurd rfl t4
  case publish => 
    simp only [State.publish, State.relStoreW, view_respond]
    exact Prod.ext rfl (setView_respond { s with w := _ } a r _)
  case storeCode c => simp only [State.rlxStoreCode, view_respond]; exact Prod.ext rfl (setView_respond { s with code := _ } a r _)
  case storeData c => simp only [State.rlxStoreData, view_respond]; exact Prod.ext rfl (setView_respond { s with data := _ } a r _)
  case countFault => simp only [State.fetchAddCount, view_respond]; exact Prod.ext rfl (setView_respond { s with count := _ } a r _)
  case storeActive c =>
    simp only [State.relStoreActive, view_respond]
    exact Prod.ext rfl (setView_respond { s with active := _ } a r _)
  case readLoad i rd =>
    have e : (((s.acqLoadW a).2.respond a r).params) = (s.acqLoadW a).2.params := rfl
    have e2 : (s.respond a r).params = s.params := rfl
    rw [e2]
    split
    · cases rd with
      | plain => rfl
      | hrt k => rfl
      | be k sk => cases sk <;> rfl
    · rfl
  case slotCopy i rd => cases rd <;> rfl
  case fltCode =>
    have e : (s.respond a r).dropAge = s.dropAge.respond a r := rfl
    simp only [State.rlxLoadCode, State.seenCode, view_respond, loaded_respond, e, setLoaded_respond]; rfl
  case fltData =>
    have e : (s.respond a r).dropAge = s.dropAge.respond a r := rfl
    simp only [State.rlxLoadData, State.seenData, view_respond, loaded_respond, e, setLoaded_respond]; rfl
  case fltCount =>
    have e : (s.respond a r).dropAge = s.dropAge.respond a r := rfl
    simp only [State.rlxLoadCount, State.seenCount, view_respond, loaded_respond, e, setLoaded_respond]; rfl
  all_goals try simp only [ctx_respond, show (s.respond a r).params = s.params from rfl]
  case hrtLag k =>
    by_cases c1 : (s.ctx k).maxLag < (s.acqLoadW a).1 - (s.ctx k).cur
    · erw [if_pos c1, if_pos c1]
    · by_cases c2 : (s.acqLoadW a).1 - (s.ctx k).cur = 0#32
      · erw [if_neg c1, if_pos c2, if_neg c1, if_pos c2]
      · erw [if_neg c1, if_neg c2, if_neg c1, if_neg c2]
  case beSkip k =>
    by_cases c1 : (s.ctx k).margin < (s.acqLoadW a).1 - (s.ctx k).cur
    · erw [if_pos c1, if_pos c1]; rfl
    · erw [if_neg c1, if_neg c1]
  case hrtOverrun k =>
    by_cases c1 : s.params.cap < (s.acqLoadW a).1 - (s.ctx k).cur
    · erw [if_pos c1, if_pos c1]
    · erw [if_neg c1, if_neg c1]
  case beLag k =>
    by_cases c1 : (s.acqLoadW a).1 - (s.ctx k).cur = 0#32
    · erw [if_pos c1, if_pos c1]
    · by_cases c2 : s.params.cap < (s.acqLoadW a).1 - (s.ctx k).cur ∨
          0#32 < (s.ctx k).thr ∧ (s.ctx k).thr < (s.acqLoadW a).1 - (s.ctx k).cur
      · erw [if_neg c1, if_pos c2, if_neg c1, if_pos c2]
      · erw [if_neg c1, if_neg c2, if_neg c1, if_neg c2]
  case beAgain k =>
    by_cases c1 : (s.acqLoadW a).1 - (s.ctx k).cur = 0#32
    · erw [if_pos c1, if_pos c1]
    · erw [if_neg c1, if_neg c1]
  all_goals first | rfl | (split_ifs <;> rfl)

/-- What comes after the rest of a command changes nothing about an entry, and stays after what the entry leaves. -/
theorem perform_append (op : Op) (a : Agent) (rest back : List Op) (k : Kind) (v o) (s : State) :
    op.perform a ⟨rest ++ back, k, v, o⟩ s =
      ({ (op.perform a ⟨rest, k, v, o⟩ s).1 with ops := (op.perform a ⟨rest, k, v, o⟩ s).1.ops ++ back },
        (op.perform a ⟨rest, k, v, o⟩ s).2) := by
  cases op <;> simp only [Op.perform, runReadLoad, runSlotCopy, runHrtInit, runHrtFlag, runHrtLag,
    runHrtOverrun, runHrtResync, runBeInit, runBeLag, runBeSkip, runBeAgain, runBeJump, runFaultCheck]
  case readLoad i rd =>
    split
    · cases rd with
      | plain => rfl
      | hrt k => simp [readFailed, Thread.prepend]
      | be k sk => cases sk <;> simp [readFailed, Thread.prepend, Thread.withResult]
    · simp [Thread.prepend]
  case slotCopy i rd => cases rd <;> rfl
  all_goals (repeat' split) <;> rfl

/-- An entry does not touch whether a command is in progress on its agent's port. -/
theorem perform_thread (op : Op) (a : Agent) (th : Thread) (s : State) (ht : tame op) :
    ((op.perform a th s).2.port a).thread = (s.port a).thread := by
  have view_th : ∀ (u : State) v, ((u.setView a v).port a).thread = (u.port a).thread := fun u v => by simp
  have loaded_th : ∀ (u : State) v, ((u.setLoaded a v).port a).thread = (u.port a).thread := fun u v => by simp
  obtain ⟨t1, t2, t3, t4⟩ := ht
  cases op <;> simp only [Op.perform, runReadLoad, runHrtInit, runHrtFlag, runHrtLag, runHrtOverrun,
    runHrtResync, runBeInit, runBeLag, runBeSkip, runBeAgain, runBeJump]
  case latch => exact absurd rfl t1
  case faultCheck x => exact absurd rfl (t2 x)
  case strmZero => exact absurd rfl t3
  case strmPublish => exact absurd rfl t4
  case readLoad => split <;> simp [readFailed_state] <;> exact view_th _ _
  case slotCopy i rd =>
    obtain ⟨c, d, h⟩ := runSlotCopy_frame i rd th s
    rw [h]; rfl
  all_goals (repeat' split) <;> first | rfl | exact view_th _ _ | exact loaded_th _ _

/-- An entry does not change whether its command has overlapped a STRM_INIT. -/
theorem perform_overlapped (op : Op) (a : Agent) (th : Thread) (s : State) : (op.perform a th s).1.overlapped = th.overlapped := by
  cases op <;> simp only [Op.perform, runReadLoad, runSlotCopy, runHrtInit, runHrtFlag, runHrtLag, runHrtOverrun, runHrtResync,
    runBeInit, runBeLag, runBeSkip, runBeAgain, runBeJump, runFaultCheck]
  case readLoad i rd =>
    split
    · cases rd with
      | plain => rfl
      | hrt k => rfl
      | be k sk => cases sk <;> rfl
    · rfl
  case slotCopy i rd => cases rd <;> rfl
  all_goals (repeat' split) <;> rfl

/-- A command of such entries, not switched out, runs to its end; so it does with another response on its port before; and with
other entries after it, those go on from what it leaves. -/
theorem run_all (a : Agent) (n : Nat) (th : Thread) (s : State) (hb : s.turn.budget = none) (hw : opsWeight th.ops < n)
    (hn : (s.port a).thread = none) (ht : ∀ o ∈ th.ops, tame o) (hc : Closed tame) :
    ∃ th' s', th'.ops = [] ∧ th'.overlapped = th.overlapped ∧ s'.outLatch = s.outLatch ∧ (s'.port a).thread = none ∧
      s'.turn.budget = none ∧ s'.turn.agent = s.turn.agent ∧ s'.fsm = s.fsm ∧ s'.params = s.params ∧
      drive a n th s = s'.finish a th' ∧ (∀ r, drive a n th (s.respond a r) = s'.finish a th') ∧
      ∀ back m, opsWeight th.ops + opsWeight back < m →
        drive a m { th with ops := th.ops ++ back } s = drive a m { th' with ops := back } s' := by
  induction n generalizing th s with
  | zero => omega
  | succ n ih =>
    cases ho : th.ops with
    | nil =>
      refine ⟨th, s, ho, rfl, rfl, hn, hb, rfl, rfl, rfl, drive_done a n th s ho, fun r => ?_, fun back m h => rfl⟩
      rw [drive_done a n th _ ho]
      simp [State.finish, State.respond]
    | cons op rest =>
      have h1 := op.perform_weight a { th with ops := rest } s
      have hr : opsWeight ({ th with ops := rest } : Thread).ops = opsWeight rest := rfl
      rw [ho, opsWeight_cons] at hw
      have hop : tame op := ht op (by simp [ho])
      have hbud : (op.perform a { th with ops := rest } s).2.turn.budget = none := by rw [Op.perform_budget, hb]
      have hw2 : opsWeight (op.perform a { th with ops := rest } s).1.ops < n := by omega
      obtain ⟨new, hun, e⟩ := perform_ops op a { th with ops := rest } s
      have ht2 : ∀ o ∈ (op.perform a { th with ops := rest } s).1.ops, tame o := by
        rw [e]; intro o hm
        rcases List.mem_append.1 hm with hm | hm
        · exact hc op new hop hun o hm
        · exact ht o (by rw [ho]; exact List.mem_cons_of_mem _ hm)
      obtain ⟨th', s', k1, k2, k3, k4, k5, k5a, k5b, k5c, k6, k7, k8⟩ :=
        ih _ _ hbud hw2 ((perform_thread op a _ s hop).trans hn) ht2
      have hov := perform_overlapped op a { th with ops := rest } s
      have hout := perform_outside op a { th with ops := rest } s
      refine ⟨th', s', k1, k2.trans hov, k3.trans (perform_outLatch op a _ s hop.1 hop.2.1), k4, k5, k5a.trans hout.2.2.2.1,
        k5b.trans hout.2.2.2.2, k5c.trans hout.1, ?_, fun r => ?_, fun back m hm => ?_⟩
      · rw [drive_cons a n op rest th s ho hb]; exact k6
      · rw [drive_cons a n op rest th _ ho (show (s.respond a r).turn.budget = none from hb), perform_respond op a _ s r hn hop]
        exact k7 r
      · obtain ⟨m, rfl⟩ : ∃ j, m = j + 1 := ⟨m - 1, by omega⟩
        have pos := opWeight_pos op
        simp only [opsWeight_cons] at hm
        have hm2 : opsWeight (op.perform a { th with ops := rest } s).1.ops + opsWeight back < m := by omega
        have := k8 back m hm2
        rw [drive_cons a m op (rest ++ back) _ s rfl hb]
        have pa := perform_append op a rest back th.kind th.value th.overlapped s
        rw [show ({ ops := rest ++ back, kind := th.kind, value := th.value, overlapped := th.overlapped } : Thread) = _ from rfl] 
        rw [show op.perform a ({ ({ th with ops := op :: rest ++ back } : Thread) with ops := rest ++ back }) s = _ from pa]
        refine this.trans ?_
        refine drive_fuel a _ _ _ _ ?_ ?_ <;> show opsWeight back < _ <;> omega

/-- What such an entry unfolds to is made of such entries. -/
theorem closed_tame : Closed tame := by
  unfold tame
  apply closed_of <;> simp

/-- An entry of a slot write is such an entry, and writes no context. -/
theorem writes_tame {op : Op} (h : op.writesSample = true) : tame op ∧ op.ctxWritten = none := by
  cases op <;> first | (cases h; done) | simp [tame, Op.ctxWritten]

/-- Entries of slot writes, not switched out, run to the same state whatever result the command has so far and whatever comes after them. -/
theorem run_writes (a : Agent) (ops : List Op) (h : ∀ o ∈ ops, o.writesSample = true) (s : State)
    (hb : s.turn.budget = none) (hn : (s.port a).thread = none) :
    ∃ s', s'.outLatch = s.outLatch ∧ (s'.port a).thread = none ∧ s'.turn.budget = none ∧
      s'.turn.agent = s.turn.agent ∧ s'.params = s.params ∧ s'.ctxs = s.ctxs ∧
      ∀ k v o back n, drive a (ops.length + n) ⟨ops ++ back, k, v, o⟩ s = drive a n ⟨back, k, v, o⟩ s' := by
  induction ops generalizing s with
  | nil => exact ⟨s, rfl, hn, hb, rfl, rfl, rfl, fun k v o back n => by simp⟩
  | cons op rest ih =>
    have hw := h op (by simp)
    obtain ⟨ht, hcx⟩ := writes_tame hw
    have ind : ∀ th th2, (op.perform a th s).2 = (op.perform a th2 s).2 := by
      intro th th2; cases op <;> first | (cases hw; done) | rfl
    have fst : ∀ th, (op.perform a th s).1 = th := by
      intro th; cases op <;> first | (cases hw; done) | rfl
    let th0 : Thread := ⟨[], .ok, 0, false⟩
    obtain ⟨s', h1, h2, h3, h4, h5, h6, h7⟩ := ih (fun o ho => h o (by simp [ho]))
      (op.perform a th0 s).2 (by rw [Op.perform_budget, hb]) ((perform_thread op a _ s ht).trans hn)
    have hout := perform_outside op a th0 s
    refine ⟨s', h1.trans (perform_outLatch op a _ s ht.1 ht.2.1), h2, h3, h4.trans hout.2.2.2.1,
      h5.trans hout.1, h6.trans (perform_ctxs op a _ s hcx), fun k v o back n => ?_⟩
    have : (op :: rest).length + n = (rest.length + n) + 1 := by simp; omega
    rw [this, drive_cons a _ op (rest ++ back) _ s rfl hb]
    simp only [fst]
    rw [ind _ th0]
    exact h7 k v o back n

end Sys2Proof.Machine
end

