-- ==== Sys2Proof/Laws/PerInstr.lean ====
section
/-!
SUPPORT. The family of per-instruction statements: what the encoder writes outside the fields of a command.
-/

namespace Sys2Proof.Laws

open Sys2Proof Sys2Proof.Machine

/-- The header is a legal one, and an operand word the command does not use is written as 0 (30_encoding.md R121, R122, R155). -/
def EncodedForm.Statement (i : Instr) : Prop :=
  legalHeader (encode i).h ∧ (usesWordA i = false → (encode i).a = 0) ∧ (usesWordB i = false → (encode i).b = 0)

/-- The header of a consumer command is legal, whatever its context nibble. -/
theorem consumerHeader_legal (k : CtxIdx) : legalHeader (consumerHeader 0x20 k) ∧ legalHeader (consumerHeader 0x21 k) ∧
    legalHeader (consumerHeader 0x22 k) ∧ legalHeader (consumerHeader 0x28 k) ∧ legalHeader (consumerHeader 0x29 k) ∧
    legalHeader (consumerHeader 0x2A k) := by
  revert k; unfold legalHeader; decide

theorem EncodedForm.strmInit : EncodedForm.Statement .strmInit :=
  ⟨by unfold legalHeader; decide, by simp [usesWordA, encode], by simp [usesWordB, encode]⟩

theorem EncodedForm.push (a : Word64) : EncodedForm.Statement (.push a) :=
  ⟨show legalHeader 0x11 by unfold legalHeader; decide, by simp [usesWordA, encode], by simp [usesWordB, encode]⟩

theorem EncodedForm.pushRaw (a : Word64) : EncodedForm.Statement (.pushRaw a) :=
  ⟨show legalHeader 0x12 by unfold legalHeader; decide, by simp [usesWordA, encode], by simp [usesWordB, encode]⟩

theorem EncodedForm.flush : EncodedForm.Statement .flush :=
  ⟨by unfold legalHeader; decide, by simp [usesWordA, encode], by simp [usesWordB, encode]⟩

theorem EncodedForm.read (a : Word64) : EncodedForm.Statement (.read a) :=
  ⟨show legalHeader 0x14 by unfold legalHeader; decide, by simp [usesWordA, encode], by simp [usesWordB, encode]⟩

theorem EncodedForm.wpos : EncodedForm.Statement .wpos :=
  ⟨by unfold legalHeader; decide, by simp [usesWordA, encode], by simp [usesWordB, encode]⟩

theorem EncodedForm.lag (a : Word64) : EncodedForm.Statement (.lag a) :=
  ⟨show legalHeader 0x16 by unfold legalHeader; decide, by simp [usesWordA, encode], by simp [usesWordB, encode]⟩

theorem EncodedForm.overrun (a : Word64) : EncodedForm.Statement (.overrun a) :=
  ⟨show legalHeader 0x17 by unfold legalHeader; decide, by simp [usesWordA, encode], by simp [usesWordB, encode]⟩

theorem EncodedForm.hrtInit (k : CtxIdx) (a : Word64) : EncodedForm.Statement (.hrtInit k a) :=
  ⟨(consumerHeader_legal k).1, by simp [usesWordA, encode], by simp [usesWordB, encode]⟩

theorem EncodedForm.hrtTick (k : CtxIdx) : EncodedForm.Statement (.hrtTick k) :=
  ⟨(consumerHeader_legal k).2.1, by simp [usesWordA, encode], by simp [usesWordB, encode]⟩

theorem EncodedForm.hrtResync (k : CtxIdx) : EncodedForm.Statement (.hrtResync k) :=
  ⟨(consumerHeader_legal k).2.2.1, by simp [usesWordA, encode], by simp [usesWordB, encode]⟩

theorem EncodedForm.beInit (k : CtxIdx) (a b : Word64) : EncodedForm.Statement (.beInit k a b) :=
  ⟨(consumerHeader_legal k).2.2.2.1, by simp [usesWordA, encode], by simp [usesWordB, encode]⟩

theorem EncodedForm.beTick (k : CtxIdx) : EncodedForm.Statement (.beTick k) :=
  ⟨(consumerHeader_legal k).2.2.2.2.1, by simp [usesWordA, encode], by simp [usesWordB, encode]⟩

theorem EncodedForm.beDropped (k : CtxIdx) : EncodedForm.Statement (.beDropped k) :=
  ⟨(consumerHeader_legal k).2.2.2.2.2, by simp [usesWordA, encode], by simp [usesWordB, encode]⟩

theorem EncodedForm.fltSet (a b : Word64) : EncodedForm.Statement (.fltSet a b) :=
  ⟨show legalHeader 0x30 by unfold legalHeader; decide, by simp [usesWordA, encode], by simp [usesWordB, encode]⟩

theorem EncodedForm.fltClear : EncodedForm.Statement .fltClear :=
  ⟨by unfold legalHeader; decide, by simp [usesWordA, encode], by simp [usesWordB, encode]⟩

theorem EncodedForm.fltActive : EncodedForm.Statement .fltActive :=
  ⟨by unfold legalHeader; decide, by simp [usesWordA, encode], by simp [usesWordB, encode]⟩

theorem EncodedForm.fltCode : EncodedForm.Statement .fltCode :=
  ⟨by unfold legalHeader; decide, by simp [usesWordA, encode], by simp [usesWordB, encode]⟩

theorem EncodedForm.fltData : EncodedForm.Statement .fltData :=
  ⟨by unfold legalHeader; decide, by simp [usesWordA, encode], by simp [usesWordB, encode]⟩

theorem EncodedForm.fltCount : EncodedForm.Statement .fltCount :=
  ⟨by unfold legalHeader; decide, by simp [usesWordA, encode], by simp [usesWordB, encode]⟩

theorem EncodedForm.iamCfg (a : Word64) : EncodedForm.Statement (.iamCfg a) :=
  ⟨show legalHeader 0x40 by unfold legalHeader; decide, by simp [usesWordA, encode], by simp [usesWordB, encode]⟩

theorem EncodedForm.iamTick (a b : Word64) : EncodedForm.Statement (.iamTick a b) :=
  ⟨show legalHeader 0x41 by unfold legalHeader; decide, by simp [usesWordA, encode], by simp [usesWordB, encode]⟩

theorem EncodedForm.prodTick (a b : Word64) : EncodedForm.Statement (.prodTick a b) :=
  ⟨show legalHeader 0x50 by unfold legalHeader; decide, by simp [usesWordA, encode], by simp [usesWordB, encode]⟩

end Sys2Proof.Laws
end

