-- ==== Sys2Proof/Tests/Slice0.lean ====
section
/-!
SUPPORT. Tests: the words of the opcode table, the checks of WellFormed, one step per instruction from the vectors of
95_test_vectors.md (their ids stand in the names), and for every statement with hypotheses a state and operands that meet them.
-/

namespace Sys2Proof.Tests

open Sys2Proof Sys2Proof.Machine

/-! ### WellFormed refuses (60_exceptions.md R408) -/

theorem test_wellFormed_sampleWord_high : (Instr.push 0x0001000000000000).wellFormed = false := by decide
theorem test_wellFormed_sampleWord_reserved : (Instr.pushRaw 0x20000000).wellFormed = false := by decide
theorem test_wellFormed_word32 : (Instr.beInit 1 4 0x100000002).wellFormed = false := by decide
theorem test_wellFormed_faultCode_zero : (Instr.fltSet 0 0).wellFormed = false := by decide
theorem test_wellFormed_faultCode_five : (Instr.fltSet 5 0).wellFormed = false := by decide
theorem test_wellFormed_configWord_speed : (Instr.iamCfg 0x700).wellFormed = false := by decide
theorem test_wellFormed_configWord_bit11 : (Instr.iamCfg 0x814).wellFormed = false := by decide
theorem test_wellFormed_paddleWord : (Instr.prodTick 0 4).wellFormed = false := by decide
theorem test_wellFormed_accepts : (Instr.push 0xFFFF1FFF0103).wellFormed = true ∧ (Instr.fltSet 4 0xFFFFFFFF).wellFormed = true ∧
    (Instr.iamCfg 0x7FF).wellFormed = true ∧ (Instr.iamTick 0xFFFFFFFFFFFFFFFF 3).wellFormed = true := by decide

/-! ### The words of 30_encoding.md R150, bit by bit -/

theorem test_decode_strmInit : decodeTableWord 32 0b00000000000000000000000000010000 = some .strmInit := by decide
theorem test_decode_push : decodeTableWord 32 0b00000000000000000000000000010001 = some (.push 0) := by decide
theorem test_decode_pushRaw : decodeTableWord 32 0b00000000000000000000000000010010 = some (.pushRaw 0) := by decide
theorem test_decode_flush : decodeTableWord 32 0b00000000000000000000000000010011 = some .flush := by decide
theorem test_decode_read : decodeTableWord 32 0b00000000000000000000000000010100 = some (.read 0) := by decide
theorem test_decode_wpos : decodeTableWord 32 0b00000000000000000000000000010101 = some .wpos := by decide
theorem test_decode_lag : decodeTableWord 32 0b00000000000000000000000000010110 = some (.lag 0) := by decide
theorem test_decode_overrun : decodeTableWord 32 0b00000000000000000000000000010111 = some (.overrun 0) := by decide
theorem test_decode_hrtInit : decodeTableWord 32 0b00000000000000000000111100100000 = some (.hrtInit 15 0) := by decide
theorem test_decode_hrtTick : decodeTableWord 32 0b00000000000000000000000100100001 = some (.hrtTick 1) := by decide
theorem test_decode_hrtResync : decodeTableWord 32 0b00000000000000000000001000100010 = some (.hrtResync 2) := by decide
theorem test_decode_beInit : decodeTableWord 32 0b00000000000000000000010000101000 = some (.beInit 4 0 0) := by decide
theorem test_decode_beTick : decodeTableWord 32 0b00000000000000000000100000101001 = some (.beTick 8) := by decide
theorem test_decode_beDropped : decodeTableWord 32 0b00000000000000000000000000101010 = some (.beDropped 0) := by decide
theorem test_decode_fltSet : decodeTableWord 32 0b00000000000000000000000000110000 = some (.fltSet 0 0) := by decide
theorem test_decode_fltClear : decodeTableWord 32 0b00000000000000000000000000110001 = some .fltClear := by decide
theorem test_decode_fltActive : decodeTableWord 32 0b00000000000000000000000000110010 = some .fltActive := by decide
theorem test_decode_fltCode : decodeTableWord 32 0b00000000000000000000000000110011 = some .fltCode := by decide
theorem test_decode_fltData : decodeTableWord 32 0b00000000000000000000000000110100 = some .fltData := by decide
theorem test_decode_fltCount : decodeTableWord 32 0b00000000000000000000000000110101 = some .fltCount := by decide
theorem test_decode_iamCfg : decodeTableWord 32 0b00000000000000000000000001000000 = some (.iamCfg 0) := by decide
theorem test_decode_iamTick : decodeTableWord 32 0b00000000000000000000000001000001 = some (.iamTick 0 0) := by decide
theorem test_decode_prodTick : decodeTableWord 32 0b00000000000000000000000001010000 = some (.prodTick 0 0) := by decide

/-- V-F1 and V-B13: the operand words reach the command. -/
theorem test_decode_operands : decode ⟨0x00000030, 4, 7⟩ = .ok (.fltSet 4 7) ∧ decode ⟨0x00000128, 16, 2⟩ = .ok (.beInit 1 16 2) := by decide

/-- V-E1, V-E4 and V-E3: why a header is illegal (30_encoding.md R151). -/
theorem test_decode_illegal : decode ⟨0x00000000, 0, 0⟩ = .error .unknownOpcode ∧
    decode ⟨0x80000011, 0, 0⟩ = .error .reservedHeaderBits ∧ decode ⟨0x00000111, 0, 0⟩ = .error .contextOnNonConsumer := by decide

/-- 20_memory.md R84: the words of a command as bytes, least significant first. -/
theorem test_bytes : (⟨0x00000120, 8, 0x0102⟩ : Command).bytes =
      [0x20, 0x01, 0, 0, 8, 0, 0, 0, 0, 0, 0, 0, 0x02, 0x01, 0, 0, 0, 0, 0, 0] ∧
    commandOfBytes [0x20, 0x01, 0, 0, 8, 0, 0, 0, 0, 0, 0, 0, 0x02, 0x01, 0, 0, 0, 0, 0, 0] = some ⟨0x00000120, 8, 0x0102⟩ := by
  decide

/-- 00_scope.md R7: which capacities are refused. -/
theorem test_params : Params.ofNumbers 0 1 = none ∧ Params.ofNumbers 12 1 = none ∧ Params.ofNumbers 4 17 = none ∧
    Params.ofNumbers 1 1 = some ⟨0, 0⟩ := by decide

/-! ### Small states -/

/-- CAP = 4, NC = 4. -/
def four : State := State.resetWith ⟨2, 3⟩

/-- CAP = 8, NC = 2. -/
def eight : State := State.resetWith ⟨3, 1⟩

/-- Agent `a` is served and not switched out. -/
def served (a : Agent) (s : State) : State := { s with turn := { agent := a, budget := none, ages := [] } }

/-- The same, and its loads ask for these ages. -/
def servedOld (a : Agent) (ages : List Nat) (s : State) : State := { s with turn := { agent := a, budget := none, ages := ages } }

/-- The state with the write index `w`. -/
def atW (w : Word32) (s : State) : State := { s with w := { cur := w, rel := View.zero, past := [] }, pw := w }

/-- The state with the fault `code`, `data` active and counted `n` times. -/
def faulted (code : BitVec 8) (data n : Word32) (s : State) : State :=
  { s with
    active := { cur := 1, rel := View.zero, past := [] }
    code := { cur := code, rel := View.zero, past := [] }
    data := { cur := data, rel := View.zero, past := [] }
    count := { cur := n, rel := View.zero, past := [] } }

/-- The state with the pending count `n` and the last sample `l`. -/
def pending (n : BitVec 16) (l : Sample) (s : State) : State := { s with idleCnt := n, last := l }

/-- A hard-RT context. -/
def hard (cur maxLag : Word32) : Context := { Context.reset with mode := .hrt, cur := cur, maxLag := maxLag }

/-- A best-effort context. -/
def soft (cur thr margin dropped : Word32) : Context :=
  { Context.reset with mode := .be, cur := cur, thr := thr, margin := margin, dropped := dropped }

/-- The FSM configured at 20 WPM, Mode A, no memories. -/
def keyer20 : Iambic := { Iambic.reset with cfg := { wpm := 20, modeB := false, ditMemEn := false, dahMemEn := false } }

/-- A block that is ready for PROD_TICK. -/
def ready (s : State) : State := { s with fsm := keyer20 }.setCtx 0 (hard s.w.cur 2)

/-- R1. -/
def r1 : Agent := .reader 0

/-- The state after a command. -/
def after (i : Instr) (s : State) : State :=
  match exec i s with
  | .next t => t
  | .fault _ => s
  | .refused _ => s

/-- The response to a command. -/
def answer (i : Instr) (s : State) : Option Response := ((after i s).port s.turn.agent).response

/-- The state after a step. -/
def stepped (s : State) : State :=
  match step s with
  | .next t => t
  | .fault _ => s
  | .refused _ => s

theorem exec_after (i : Instr) (s : State) : exec i s = .next (after i s) := by
  obtain ⟨t, h⟩ := State.issue_next s (checksOf s i) (fun t => bodyOf t i)
  rw [← exec_eq_issue] at h
  simp [after, h]

/-- Agent `a`'s command has these entries left, and the next step goes on with it. -/
def parked (a : Agent) (ops : List Op) (s : State) : State :=
  { s.setPort a { s.port a with thread := some (Thread.start ops 0) } with turns := [.serve { agent := a, budget := none, ages := [] }] }

/-- Command `i` is queued at agent `a`'s port, and the next step serves it. -/
def queued (a : Agent) (i : Instr) (s : State) : State :=
  { s.setInbox a [encode i] with turns := [.serve { agent := a, budget := none, ages := [] }] }

theorem parked_port (a : Agent) (ops : List Op) (s : State) :
    (parked a ops s).port a = { s.port a with thread := some (Thread.start ops 0) } :=
  State.port_setPort_same s a { s.port a with thread := some (Thread.start ops 0) }

theorem parked_runs (a : Agent) (i : Instr) (ops : List Op) (s : State) (h : s.hasPort a = true) (hl : mayBeLeft i ops)
    (hr : (roleOf i).admits s.params.nc a) : (parked a ops s).nextRuns a i := by
  refine ⟨_, _, rfl, rfl, h, ?_⟩
  rw [parked_port]
  exact ⟨⟨hl, fun e => by simp [Thread.start] at e⟩, hr⟩

theorem queued_runs (a : Agent) (i : Instr) (s : State) (h : s.hasPort a = true) (hn : (s.port a).thread = none)
    (hd : decode (encode i) = .ok i) : (queued a i s).nextRuns a i := by
  refine ⟨_, _, rfl, rfl, h, ?_⟩
  rw [show ((queued a i s).port a).thread = none from hn]
  exact ⟨_, [], State.inbox_setInbox_same s a [encode i], hd⟩

/-- In a block with no other command in progress, a command of its own agent in progress is owned. -/
theorem parked_owned (a : Agent) (i : Instr) (ops : List Op) (s : State) (hs : s.ports = []) (hl : mayBeLeft i ops)
    (hr : (roleOf i).admits s.params.nc a) : (parked a ops s).threadsOwned := by
  intro b th h
  by_cases hb : b = a
  · subst hb
    rw [parked_port] at h; cases h
    exact ⟨i, ⟨hl, fun e => by simp [Thread.start] at e⟩, hr⟩
  · rw [show (parked a ops s).port b = s.port b from State.port_setPort_other s { s.port a with thread := some (Thread.start ops 0) } hb] at h
    simp [State.port, hs, sparseGet, Port.idle] at h

theorem step_of_runs (s : State) (a : Agent) (i : Instr) (h : s.nextRuns a i) : step s = .next (stepped s) := by
  obtain ⟨slice, rest, h1, rfl, h3, h4⟩ := h
  have hstep : step s = serve slice (s.serving slice rest) := by simp only [step, h1, h3, if_true]
  have ht : ((s.serving slice rest).port slice.agent).thread = (s.port slice.agent).thread := rfl
  cases hth : (s.port slice.agent).thread with
  | some th =>
    simp only [serve, ht, hth] at hstep
    simp only [stepped, hstep]
  | none =>
    rw [hth] at h4
    obtain ⟨c, cs, e1, e2⟩ := h4
    have e3 : (s.serving slice rest).inbox slice.agent = c :: cs := e1
    simp only [serve, ht, hth, e3, e2, exec_after] at hstep
    simp only [stepped, hstep]

/-! ### Keying Stream (V-S vectors, CAP = 4) -/

theorem test_strmInit_VS18 : (after .strmInit (atW 5 (pending 3 1 four))).w.cur = 0 ∧
    answer .strmInit (atW 5 (pending 3 1 four)) = some ⟨.ok, .ok, 0⟩ := by decide
theorem test_push_VS1 : answer (.push 1) four = some ⟨.ok, .ok, 1⟩ ∧ (after (.push 1) four).slots = [(0, 0x000001000001)] := by
  decide
theorem test_push_VS6 : (after (.push 0) (pending 65535 0x000001000100 four)).slots =
    [(0, 0xFFFF04000000), (1, 0x000002000000)] := by decide
theorem test_pushRaw_VS9 : (after (.pushRaw 0x000504000003) four).slots = [(0, 0x000504000003)] ∧
    (after (.pushRaw 0x000504000003) four).last = 0 := by decide
theorem test_pushRaw_VS8 : answer (.pushRaw 4) four = some ⟨.errBadArg, .ok, 0⟩ := by decide
theorem test_flush_VS4 : (after .flush (pending 1 0 four)).slots = [(0, 0x000104000000)] ∧
    (after .flush (pending 1 0 four)).idleCnt = 0 := by decide
theorem test_flush_VS16 : answer .flush (served r1 four) = some ⟨.errRole, .ok, 0⟩ := by decide
theorem test_read_VS11_inside : answer (.read 2) (served r1 ((atW 6 four).setSlot 2 0x1000001)) = some ⟨.ok, .ok, 0x1000001⟩ := by
  decide
theorem test_read_VS11_outside : answer (.read 1) (served r1 (atW 6 four)) = some ⟨.ok, .noData, 0⟩ ∧
    answer (.read 7) (served r1 (atW 6 four)) = some ⟨.ok, .noData, 0⟩ := by decide
theorem test_wpos_VS20 : answer .wpos (served r1 (atW 7 four)) = some ⟨.ok, .ok, 7⟩ := by decide
theorem test_lag_VS12 : answer (.lag 11) (atW 10 four) = some ⟨.ok, .ok, 0xFFFFFFFF⟩ := by decide
theorem test_overrun_VS13 : answer (.overrun 4) (atW 9 four) = some ⟨.ok, .ok, 1⟩ ∧
    answer (.overrun 5) (atW 9 four) = some ⟨.ok, .ok, 0⟩ := by decide

/-! ### Hard-RT consumer (V-H vectors, CAP = 8, context 1) -/

theorem test_hrtInit_VH1 : (after (.hrtInit 1 8) (served r1 (atW 12 eight))).ctx 1 = hard 12 8 := by decide
theorem test_hrtInit_VH15 : answer (.hrtInit 1 4) (served .operator eight) = some ⟨.errRole, .ok, 0⟩ := by decide
theorem test_hrtTick_VH4 : answer (.hrtTick 1) (served r1 ((atW 15 eight).setCtx 1 (hard 10 4))) = some ⟨.ok, .fault, 0⟩ ∧
    (after (.hrtTick 1) (served r1 ((atW 15 eight).setCtx 1 (hard 10 4)))).data.cur = 5 := by decide
theorem test_hrtTick_VH13 : ((after (.hrtTick 1) (served r1 ((atW 1 eight).setCtx 1 (hard 0xFFFFFFFE 4)))).ctx 1).cur = 0xFFFFFFFF := by
  decide
theorem test_hrtResync_VH9 : (after (.hrtResync 1) (served r1 ((atW 40 eight).setCtx 1 (hard 10 4)))).ctx 1 = hard 40 4 := by decide
theorem test_hrtResync_VH14 : answer (.hrtResync 1) (served r1 (eight.setCtx 1 (soft 0 0 0 0))) = some ⟨.errMode, .ok, 0⟩ := by decide

/-! ### Best-effort consumer (V-B vectors, CAP = 8, context 1) -/

theorem test_beInit_VB13 : (after (.beInit 1 16 2) (served r1 ((atW 100 eight).setCtx 1 (soft 0 0 0 40)))).ctx 1 = soft 100 16 2 0 := by
  decide
theorem test_beTick_VB1 : (after (.beTick 1) (served r1 ((atW 7 eight).setCtx 1 (soft 0 4 2 0)))).ctx 1 = soft 6 4 2 5 := by decide
theorem test_beTick_VB7 : (after (.beTick 1) (served r1 ((atW 20 eight).setCtx 1 (soft 0 0 2 0xFFFFFFF0)))).ctx 1 =
    soft 19 0 2 0xFFFFFFFF := by decide
theorem test_beDropped_VB12 : answer (.beDropped 1) (served r1 (eight.setCtx 1 (soft 6 4 2 5))) = some ⟨.ok, .ok, 5⟩ := by decide
theorem test_beDropped_VB11 : answer (.beDropped 1) (served r1 eight) = some ⟨.errNotReady, .ok, 0⟩ := by decide

/-! ### Fault State (V-F vectors) -/

theorem test_fltSet_VF1 : (after (.fltSet 4 7) (served .operator eight)).code.cur = 4 ∧
    (after (.fltSet 4 7) (served .operator eight)).faultPin = true := by decide
theorem test_fltSet_VF10 : (after (.fltSet 4 0) (served .operator (faulted 1 1 0xFFFFFFFF eight))).count.cur = 0 := by decide
theorem test_fltClear_VF2 : (after .fltClear (served .operator (faulted 4 7 1 eight))).active.cur = 0 ∧
    (after .fltClear (served .operator (faulted 4 7 1 eight))).count.cur = 1 := by decide
theorem test_fltClear_VF5 : answer .fltClear (faulted 4 7 1 eight) = some ⟨.errRole, .ok, 0⟩ := by decide
theorem test_fltActive_VF1 : answer .fltActive (served r1 (faulted 4 7 1 eight)) = some ⟨.ok, .ok, 1⟩ := by decide
theorem test_fltCode_VF1 : answer .fltCode (served r1 (faulted 4 7 1 eight)) = some ⟨.ok, .ok, 4⟩ := by decide
theorem test_fltData_VF1 : answer .fltData (served r1 (faulted 4 7 1 eight)) = some ⟨.ok, .ok, 7⟩ := by decide
theorem test_fltCount_VF6 : answer .fltCount (served r1 (faulted 4 7 3 eight)) = some ⟨.ok, .ok, 3⟩ := by decide

/-! ### Iambic FSM (V-I vectors) -/

theorem test_iamCfg_VI6 : (after (.iamCfg 0x414) eight).fsm.cfg = { wpm := 20, modeB := false, ditMemEn := false, dahMemEn := true } := by
  decide
theorem test_iamCfg_VI11 : answer (.iamCfg 0x19) { eight with fsm := { keyer20 with st := .sendDit } } = some ⟨.errBusy, .ok, 0⟩ := by
  decide
theorem test_iamTick_VI1 : answer (.iamTick 0 1) { eight with fsm := keyer20 } = some ⟨.ok, .ok, 0x101⟩ ∧
    (after (.iamTick 0 1) { eight with fsm := keyer20 }).fsm.deadline = 60000 := by decide
theorem test_iamTick_VI10 : answer (.iamTick 0 1) eight = some ⟨.errNotReady, .ok, 0⟩ := by decide
theorem test_ditDuration_VI9 : ditDuration 7 = 171428 ∧ ditDuration 13 = 92307 ∧ ditDuration 255 = 4705 := by decide

/-! ### Producer tick (V-P vectors and program P1) -/

theorem test_prodTick_P1 : answer (.prodTick 0 1) (ready eight) = some ⟨.ok, .ok, 0x0001000000000101⟩ ∧
    (after (.prodTick 0 1) (ready eight)).outLatch = true := by decide
theorem test_prodTick_VP3 : answer (.prodTick 0 1) ((ready eight).setCtx 0 (soft 0 0 2 0)) = some ⟨.errMode, .ok, 0⟩ := by decide

/-! ### Interleaving and reset -/

/-- V-M3: a copy that an overwrite races answers the draw, whatever it is. -/
theorem test_draw_VM3 : answer (.read 0) (served r1 { atW 4 four with pw := 5 }) =
    some ⟨.ok, .ok, (Config.slotDraw 0).zeroExtend 64⟩ := by rfl

/-- P is ready and the latch is 1; O has set the fault, which neither load of ACTIVE of P's next tick returns. -/
def staleTick : State :=
  servedOld .producer [1, 0, 0, 0, 1] (after (.fltSet 4 1) (served .operator { ready eight with outLatch := true }))

/-- 45_producer.md R340: bit 48 is OUT_LATCH & ~a for the tick's own load; the pin is 0 (R342). -/
theorem test_prodTick_stale_flag : answer (.prodTick 0 1) staleTick = some ⟨.ok, .ok, 0x0001000000000101⟩ ∧
    (after (.prodTick 0 1) staleTick).txKey = false := by decide

/-- V-M2: a load may return the older value. -/
theorem test_older_VM2 : answer (.read 0)
      { after (.pushRaw 1) four with turn := { agent := r1, budget := none, ages := [1] } } = some ⟨.ok, .noData, 0⟩ := by decide

/-- O has stored CODE 2 and is switched out; P loads it, and pushes; R1 loads W. -/
def relaxedLoad : State :=
  after .wpos (served r1 (after (.pushRaw 1) (after .fltCode (served .producer
    (after (.fltSet 2 7) { eight with turn := { agent := .operator, budget := some 1, ages := [] } })))))

/-- 20_memory.md R101, R105: P has loaded CODE 2, so P's next load returns nothing older; but a relaxed load makes no store happen
before P's push, so R1, which has loaded the W of that push, may still load the CODE before. -/
theorem test_relaxed_load_is_not_released :
    ((after .fltCode (servedOld .producer [1] relaxedLoad)).port .producer).response = some ⟨.ok, .ok, 2⟩ ∧
    ((after .fltCode (servedOld r1 [1] relaxedLoad)).port r1).response = some ⟨.ok, .ok, 0⟩ ∧
    (relaxedLoad.port r1).response = some ⟨.ok, .ok, 1⟩ := by decide

/-- 70_reset_and_hazards.md R451: reset while a command is in progress is refused. -/
theorem test_reset_during_command :
    step { after (.pushRaw 1) { four with turn := { agent := .producer, budget := some 1, ages := [] } } with turns := [.reset] } =
      .refused .resetDuringCommand := by rfl

/-- 00_scope.md R6, R8: with NC = 2 there is no R2. -/
theorem test_no_such_port : step { eight with turns := [.serve { agent := .reader 1, budget := none, ages := [] }] } =
    .refused .noSuchPort := by rfl

/-- A placed command is issued by the very next step. -/
theorem test_withFetchWord : ((stepped (State.reset.withFetchWord 32 0x00000010)).port .producer).response = some ⟨.ok, .ok, 0⟩ := by
  decide

/-! ### The hypotheses of the statements can be met -/

theorem witness_EncodeOfDecode : decode ⟨0x00000028, 4, 0x100000002⟩ = .ok (.beInit 0 4 0x100000002) := by decide

/-- One command error of each kind, the first failing check deciding (V-E6, V-E7, V-H14, V-E9, V-I11). -/
theorem witness_FailedCheck : (served r1 eight).fails (.push 4) .errRole ∧ eight.fails (.prodTick 0 4) .errNotReady ∧
    (served r1 (eight.setCtx 1 (soft 0 0 0 0))).fails (.hrtTick 1) .errMode ∧ eight.fails (.read 0x100000000) .errBadArg ∧
    ({ eight with fsm := { keyer20 with st := .sendDit } } : State).fails (.iamCfg 0x19) .errBusy :=
  ⟨(firstFailure_iff _ _ _).1 (by decide), (firstFailure_iff _ _ _).1 (by decide), (firstFailure_iff _ _ _).1 (by decide),
    (firstFailure_iff _ _ _).1 (by decide), (firstFailure_iff _ _ _).1 (by decide)⟩

theorem witness_Admitted_stream : four.unlimited ∧ four.admitsCommand .strmInit ∧ four.admitsCommand (.push 0x101) ∧
    four.admitsCommand (.pushRaw 0x101) ∧ four.admitsCommand .flush ∧ four.admitsCommand (.read 0xFFFFFFFF) ∧
    four.admitsCommand .wpos ∧ four.admitsCommand (.lag 0) ∧ four.admitsCommand (.overrun 0) :=
  ⟨rfl, admits_of_passing _ _ (by decide), admits_of_passing _ _ (by decide), admits_of_passing _ _ (by decide),
    admits_of_passing _ _ (by decide), admits_of_passing _ _ (by decide), admits_of_passing _ _ (by decide),
    admits_of_passing _ _ (by decide), admits_of_passing _ _ (by decide)⟩

theorem witness_Admitted_consumers : (served r1 (eight.setCtx 1 (hard 0 4))).unlimited ∧
    (served r1 (eight.setCtx 1 (hard 0 4))).admitsCommand (.hrtInit 1 8) ∧
    (served r1 (eight.setCtx 1 (hard 0 4))).admitsCommand (.hrtTick 1) ∧
    (served r1 (eight.setCtx 1 (hard 0 4))).admitsCommand (.hrtResync 1) ∧
    (served r1 (eight.setCtx 1 (soft 0 4 2 0))).admitsCommand (.beInit 1 4 2) ∧
    (served r1 (eight.setCtx 1 (soft 0 4 2 0))).admitsCommand (.beTick 1) ∧
    (served r1 (eight.setCtx 1 (soft 0 4 2 0))).admitsCommand (.beDropped 1) :=
  ⟨rfl, admits_of_passing _ _ (by decide), admits_of_passing _ _ (by decide), admits_of_passing _ _ (by decide),
    admits_of_passing _ _ (by decide), admits_of_passing _ _ (by decide), admits_of_passing _ _ (by decide)⟩

theorem witness_Admitted_rest : (ready eight).unlimited ∧ (served .operator eight).admitsCommand (.fltSet 4 7) ∧
    (served .operator eight).admitsCommand .fltClear ∧ eight.admitsCommand .fltActive ∧ eight.admitsCommand .fltCode ∧
    eight.admitsCommand .fltData ∧ eight.admitsCommand .fltCount ∧ (ready eight).admitsCommand (.iamCfg 0x14) ∧
    (ready eight).admitsCommand (.iamTick 0 3) ∧ (ready eight).admitsCommand (.prodTick 0 3) :=
  ⟨rfl, admits_of_passing _ _ (by decide), admits_of_passing _ _ (by decide), admits_of_passing _ _ (by decide),
    admits_of_passing _ _ (by decide), admits_of_passing _ _ (by decide), admits_of_passing _ _ (by decide),
    admits_of_passing _ _ (by decide), admits_of_passing _ _ (by decide), admits_of_passing _ _ (by decide)⟩

/-- The slice of the next two witnesses. -/
def ownSlice : Slice := { agent := .producer, budget := none, ages := [] }

theorem witness_StepIssues : (State.reset.withFetchWord 32 0x11).turns = .serve ownSlice :: [] ∧
    (State.reset.withFetchWord 32 0x11).hasPort ownSlice.agent = true ∧
    ((State.reset.withFetchWord 32 0x11).port ownSlice.agent).thread = none ∧
    (State.reset.withFetchWord 32 0x11).inbox ownSlice.agent = ⟨0x11, 0, 0⟩ :: [] ∧ decode ⟨0x11, 0, 0⟩ = .ok (.push 0) := by
  decide

/-- A command in progress; nothing in progress and nothing queued. -/
theorem witness_StepIssues_else : (parked .producer [.publish] four).turns = .serve ownSlice :: [] ∧
    (parked .producer [.publish] four).hasPort ownSlice.agent = true ∧
    ((parked .producer [.publish] four).port ownSlice.agent).thread = some (Thread.start [.publish] 0) ∧
    ({ four with turns := [.serve ownSlice] } : State).inbox ownSlice.agent = [] ∧
    (({ four with turns := [.serve ownSlice] } : State).port ownSlice.agent).thread = none := by decide

theorem witness_StepAnswersAnIllegalHeader : (State.reset.withFetchWord 32 0x1011).turns = .serve ownSlice :: [] ∧
    (State.reset.withFetchWord 32 0x1011).hasPort ownSlice.agent = true ∧
    ((State.reset.withFetchWord 32 0x1011).port ownSlice.agent).thread = none ∧
    (State.reset.withFetchWord 32 0x1011).inbox ownSlice.agent = ⟨0x1011, 0, 0⟩ :: [] ∧ ¬ legalHeader 0x1011 := by
  unfold legalHeader; decide

/-- Switched out inside a slot write, and not switched out at all. -/
theorem witness_BeingSwitchedOut : (four.port four.issuer).thread = none ∧ ownSlice = { agent := four.issuer, budget := none, ages := [] } ∧
    exec (.push 1) { four with turn := ownSlice } = .next (after (.push 1) { four with turn := ownSlice }) ∧
    exec (.push 1) { four with turn := { ownSlice with budget := some 1 } } =
      .next (after (.push 1) { four with turn := { ownSlice with budget := some 1 } }) ∧
    ((after (.push 1) { four with turn := { ownSlice with budget := some 1 } }).port .producer).thread ≠ none :=
  ⟨rfl, rfl, exec_after _ _, exec_after _ _, by decide⟩

theorem witness_Reset : ({ faulted 4 7 1 (atW 5 State.reset) with turns := [.reset] } : State).turns = .reset :: [] ∧
    ({ faulted 4 7 1 (atW 5 State.reset) with turns := [.reset] } : State).anyInProgress = false ∧
    ({ faulted 4 7 1 (atW 5 State.reset) with turns := [.reset] } : State).inboxes = [] ∧
    (stepped { faulted 4 7 1 (atW 5 State.reset) with turns := [.reset] }).draws = 0 ∧
    (stepped { faulted 4 7 1 (atW 5 State.reset) with turns := [.reset] }).params = Config.resetParams := by decide

theorem witness_StrmInit : (atW 5 four).unlimited ∧ (atW 5 four).issuer = .producer := ⟨rfl, rfl⟩

theorem witness_PushUnchanged : (pending 65535 0x000001000100 four).unlimited ∧ (pending 65535 0x000001000100 four).issuer = .producer ∧
    (Instr.push 0x100).wellFormed = true ∧ samplePaddles (operandSample 0x100) = samplePaddles (pending 65535 0x000001000100 four).last ∧
    sampleKey (operandSample 0x100) = sampleKey (pending 65535 0x000001000100 four).last ∧
    sampleAudio (operandSample 0x100) = sampleAudio (pending 65535 0x000001000100 four).last := ⟨rfl, rfl, by decide⟩

/-- With ticks pending and without. -/
theorem witness_PushChanged : (pending 65535 0x000001000100 four).unlimited ∧ (pending 65535 0x000001000100 four).issuer = .producer ∧
    (Instr.push 0).wellFormed = true ∧
    (∀ n : BitVec 16, ¬ (samplePaddles (operandSample 0) = samplePaddles (pending n 0x000001000100 four).last ∧
      sampleKey (operandSample 0) = sampleKey (pending n 0x000001000100 four).last ∧
      sampleAudio (operandSample 0) = sampleAudio (pending n 0x000001000100 four).last)) ∧
    pendingMarker (pending 65535 0x000001000100 four) ≠ [] ∧ pendingMarker (pending 0 0x000001000100 four) = [] :=
  ⟨rfl, rfl, by decide, fun n h => absurd h.2.1 (by simp [pending]; decide), by decide, by decide⟩

theorem witness_PushRaw : (atW 0xFFFFFFFF four).unlimited ∧ (atW 0xFFFFFFFF four).issuer = .producer ∧
    (Instr.pushRaw 0x000504000003).wellFormed = true := ⟨rfl, rfl, by decide⟩

theorem witness_Flush : (pending 1 0 four).unlimited ∧ (pending 1 0 four).issuer = .producer ∧
    pendingMarker (pending 1 0 four) ≠ [] ∧ pendingMarker four = [] := ⟨rfl, rfl, by decide, by decide⟩

/-- The first clause at both ends of the window (1 and CAP behind), the second at both ends outside it (0 and CAP + 1); and a reader that
has not loaded W since the last publication. -/
theorem witness_Read : (served r1 (atW 6 four)).unlimited ∧ (served r1 (atW 6 four)).loadsW r1 [6] ∧
    ((Instr.read 5).wellFormed = true ∧ (Instr.read 2).wellFormed = true ∧ (Instr.read 6).wellFormed = true ∧
    (Instr.read 1).wellFormed = true ∧
    ((6 : Word32) - operandWord 5).toNat = 1 ∧ ((6 : Word32) - operandWord 2).toNat = 2 ^ four.params.capLog2.val ∧
    (served r1 (atW 6 four)).copyDraws false (operandWord 5) = false ∧
    (served r1 (atW 6 four)).copyDraws false (operandWord 2) = false ∧
    ((6 : Word32) - operandWord 6).toNat = 0 ∧ ((6 : Word32) - operandWord 1).toNat = 2 ^ four.params.capLog2.val + 1) ∧
    (served r1 (after (.pushRaw 1) four)).loadsW r1 [1] ∧ ¬ (served r1 (after (.pushRaw 1) four)).seesW r1 :=
  ⟨rfl, ⟨rfl, trivial⟩, by decide, ⟨by decide, trivial⟩, by unfold State.seesW; decide⟩

/-- A reader's port with a STRM_INIT in progress on P's. -/
def initRunning : State :=
  served r1 (atW 6 { four with ports := [(0, { Port.idle with thread := some (Thread.start [.strmPublish] 0) })] })

/-- An overwrite has begun; a STRM_INIT is in progress. -/
theorem witness_ReadRaces : (served r1 { atW 4 four with pw := 5 }).unlimited ∧ (Instr.read 0).wellFormed = true ∧
    (served r1 { atW 4 four with pw := 5 }).loadsW r1 [4] ∧ ((4 : Word32) - operandWord 0).toNat = 2 ^ four.params.capLog2.val ∧
    2 ^ four.params.capLog2.val < ((5 : Word32) - operandWord 0).toNat ∧
    initRunning.unlimited ∧ (Instr.read 5).wellFormed = true ∧ initRunning.loadsW r1 [6] ∧
    ((6 : Word32) - operandWord 5).toNat = 1 ∧ initRunning.strmInitRunning = true :=
  ⟨rfl, by decide, ⟨rfl, trivial⟩, by decide, by decide, rfl, by decide, ⟨rfl, trivial⟩, by decide, by decide⟩

theorem witness_PositionQueries : (served r1 (atW 9 four)).unlimited ∧ (served r1 (atW 9 four)).loadsW r1 [9] ∧
    (Instr.lag 4).wellFormed = true ∧ (Instr.overrun 4).wellFormed = true ∧
    2 ^ four.params.capLog2.val < ((9 : Word32) - operandWord 4).toNat ∧
    ¬ 2 ^ four.params.capLog2.val < ((9 : Word32) - operandWord 5).toNat :=
  ⟨rfl, ⟨rfl, trivial⟩, by decide, by decide, by decide, by decide⟩

/-- READ issued; READ inside its slot copy; WPOS queued. -/
theorem witness_Observers : Instr.read 2 ∈ [Instr.read 2, .wpos, .lag 2, .overrun 2, .fltActive, .fltCode, .fltData, .fltCount] ∧
    exec (.read 2) (served r1 (atW 6 four)) = .next (after (.read 2) (served r1 (atW 6 four))) ∧
    (parked r1 [.slotCopy 2 .plain] (atW 6 four)).nextRuns r1 (.read 2) ∧
    step (parked r1 [.slotCopy 2 .plain] (atW 6 four)) = .next (stepped (parked r1 [.slotCopy 2 .plain] (atW 6 four))) ∧
    (queued r1 .wpos four).nextRuns r1 .wpos :=
  have h := parked_runs r1 (.read 2) [.slotCopy 2 .plain] (atW 6 four) (by decide) (.inr (.inr rfl)) trivial
  ⟨by simp, exec_after _ _, h, step_of_runs _ _ _ h, queued_runs _ _ _ (by decide) (by decide) (by decide)⟩

/-- R1 has seen only the reset value of W and asks for the value before the latest. -/
theorem witness_Wpos : (servedOld r1 [1] (after (.pushRaw 1) four)).unlimited ∧
    1 ≤ (servedOld r1 [1] (after (.pushRaw 1) four)).w.top - ((servedOld r1 [1] (after (.pushRaw 1) four)).view r1).w ∧
    (servedOld r1 [1] (after (.pushRaw 1) four)).turn.ages.headD 0 = 1 := ⟨rfl, by decide, rfl⟩

theorem witness_CompressionRoundTrip : four.unlimited ∧ four.issuer = .producer ∧ (Instr.push 0x101).wellFormed = true ∧
    (Instr.push 0).wellFormed = true ∧ four.idleCnt = 0 ∧ sameSample (operandSample 0x101) four.last = false ∧
    sameSample (operandSample 0) (operandSample 0x101) = false := ⟨rfl, rfl, by decide⟩

theorem witness_HrtInit : (served r1 (atW 12 eight)).unlimited ∧ (served r1 (atW 12 eight)).admitsCommand (.hrtInit 1 8) ∧
    (served r1 (atW 12 eight)).loadsW r1 [12] := ⟨rfl, admits_of_passing _ _ (by decide), rfl, trivial⟩

theorem witness_HrtResync : (served r1 (faulted 2 5 1 ((atW 40 eight).setCtx 1 (hard 10 4)))).unlimited ∧
    (served r1 (faulted 2 5 1 ((atW 40 eight).setCtx 1 (hard 10 4)))).admitsCommand (.hrtResync 1) ∧
    (served r1 (faulted 2 5 1 ((atW 40 eight).setCtx 1 (hard 10 4)))).loadsW r1 [40] :=
  ⟨rfl, admits_of_passing _ _ (by decide), rfl, trivial⟩

theorem witness_HrtTickUnderAFault : (served r1 (faulted 2 5 1 (eight.setCtx 1 (hard 10 4)))).unlimited ∧
    (served r1 (faulted 2 5 1 (eight.setCtx 1 (hard 10 4)))).admitsCommand (.hrtTick 1) ∧
    ((served r1 (faulted 2 5 1 (eight.setCtx 1 (hard 10 4)))).acqLoadActive r1).1 = true :=
  ⟨rfl, admits_of_passing _ _ (by decide), by decide⟩

/-- The values that agent `a`'s next `n` loads of W return, one after the other. -/
def nextLoads (a : Agent) : Nat → State → List Word32
  | 0, _ => []
  | n + 1, s => (s.acqLoadW a).1 :: nextLoads a n (s.acqLoadW a).2

theorem loadsW_of_next (a : Agent) (n : Nat) (s : State) : s.loadsW a (nextLoads a n s) := by
  induction n generalizing s with
  | zero => trivial
  | succ n ih => exact ⟨rfl, ih _⟩

/-- A tick of R1 whose five loads of W, after `front` other ages, ask for these values one after the other. -/
def loading (front : List Nat) (w w2 w3 w4 w5 : Word32) (c : Context) : State :=
  { servedOld r1 (front ++ [4, 3, 2, 1, 0]) (eight.setCtx 1 c) with
    w := { cur := w5, rel := View.zero, past := [(w4, View.zero), (w3, View.zero), (w2, View.zero), (w, View.zero)] }
    pw := w5 }

theorem loading_ctx (front : List Nat) (w w2 w3 w4 w5 : Word32) (c : Context) : (loading front w w2 w3 w4 w5 c).ctx 1 = c :=
  State.ctx_setCtx_same eight 1 c

/-- A hard-RT tick with the cursor at 0 whose three loads of W return `w`, `w2` and `w3`. -/
def hrtAt (w w2 w3 maxLag : Word32) : State := loading [0] w w2 w3 w3 w3 (hard 0 maxLag)

/-- Everything else the hard-RT tick statements ask, whatever the loads return and whatever MAXLAG is. -/
theorem hrtAt_meets (w w2 w3 maxLag : Word32) : (hrtAt w w2 w3 maxLag).unlimited ∧
    (hrtAt w w2 w3 maxLag).admitsCommand (.hrtTick 1) ∧ (hrtAt w w2 w3 maxLag).ctx 1 = hard 0 maxLag ∧
    ((hrtAt w w2 w3 maxLag).acqLoadActive r1).1 = false := by
  refine ⟨rfl, admits_of_passing _ _ ?_, loading_ctx _ _ _ _ _ _ _, rfl⟩
  simp only [checksOf, State.ctxReady, hrtAt, loading_ctx]; rfl

/-- The three loads of W behind the load of ACTIVE. -/
def hrtLoads (s : State) : List Word32 := nextLoads r1 3 (s.acqLoadActive r1).2

/-- The boundaries: MAXLAG + 1 for (b); CAP + 1 on the second load for (d); a lag of CAP + 1 and of 0 (a STRM_INIT between) on the third
load for (e), the second being CAP; a lag of 0 for (c); MAXLAG, CAP and CAP, and 1 on the third load, for (f). -/
theorem witness_HrtTick :
    (hrtLoads (hrtAt 5 5 5 4) = [5, 5, 5] ∧ (4 : Word32) < 5 - 0) ∧
    (hrtLoads (hrtAt 4 9 9 4) = [4, 9, 9] ∧ (4 : Word32) - 0 ≤ 4 ∧ (4 : Word32) ≠ 0 ∧ 2 ^ eight.params.capLog2.val < ((9 : Word32) - 0).toNat) ∧
    (hrtLoads (hrtAt 4 8 9 4) = [4, 8, 9] ∧ ((8 : Word32) - 0).toNat ≤ 2 ^ eight.params.capLog2.val) ∧
    hrtLoads (hrtAt 4 8 0 4) = [4, 8, 0] ∧ hrtLoads (hrtAt 0 0 0 4) = [0, 0, 0] ∧
    (hrtLoads (hrtAt 4 8 8 4) = [4, 8, 8] ∧ (hrtAt 4 8 8 4).copyDraws false 0 = false) ∧
    (hrtLoads (hrtAt 4 8 1 4) = [4, 8, 1] ∧ 1 ≤ ((1 : Word32) - 0).toNat ∧ (hrtAt 4 8 1 4).copyDraws false 0 = false) := by decide

/-- R1 inside the slot copy of a tick. -/
theorem witness_HrtTickNeverSkips : (parked r1 [.slotCopy 0 (.hrt 1)] ((atW 4 eight).setCtx 1 (hard 0 4))).nextRuns r1 (.hrtTick 1) ∧
    step (parked r1 [.slotCopy 0 (.hrt 1)] ((atW 4 eight).setCtx 1 (hard 0 4))) =
      .next (stepped (parked r1 [.slotCopy 0 (.hrt 1)] ((atW 4 eight).setCtx 1 (hard 0 4)))) ∧
    exec (.hrtTick 1) (served r1 ((atW 4 eight).setCtx 1 (hard 0 4))) = .next (after (.hrtTick 1) (served r1 ((atW 4 eight).setCtx 1 (hard 0 4)))) :=
  have h := parked_runs r1 (.hrtTick 1) [.slotCopy 0 (.hrt 1)] ((atW 4 eight).setCtx 1 (hard 0 4)) (by decide)
    (.inr (.inr (.inr (.inr (.inl ⟨0, rfl⟩))))) ⟨rfl, by decide⟩
  ⟨h, step_of_runs _ _ _ h, exec_after _ _⟩

theorem witness_BeInit : (served r1 (atW 100 eight)).unlimited ∧ (served r1 (atW 100 eight)).admitsCommand (.beInit 1 16 2) ∧
    (served r1 (atW 100 eight)).loadsW r1 [100] := ⟨rfl, admits_of_passing _ _ (by decide), rfl, trivial⟩

/-- A best-effort tick with the cursor at 0 whose five loads of W return these values. -/
def beAt (w w2 w3 w4 w5 thr margin : Word32) : State := loading [] w w2 w3 w4 w5 (soft 0 thr margin 40)

/-- Everything else the best-effort tick statements ask, whatever the loads return and whatever THR and MARGIN are. -/
theorem beAt_meets (w w2 w3 w4 w5 thr margin : Word32) : (beAt w w2 w3 w4 w5 thr margin).unlimited ∧
    (beAt w w2 w3 w4 w5 thr margin).admitsCommand (.beTick 1) ∧ (beAt w w2 w3 w4 w5 thr margin).ctx 1 = soft 0 thr margin 40 := by
  refine ⟨rfl, admits_of_passing _ _ ?_, loading_ctx _ _ _ _ _ _ _⟩
  simp only [checksOf, State.ctxReady, beAt, loading_ctx]; rfl

/-- No skip at a lag of 0, of THR and, with no threshold, of CAP; the load of the read at 1 and CAP (in the window), and at 0 and CAP + 1. -/
theorem witness_BeTickReads : nextLoads r1 2 (beAt 0 0 0 0 0 4 2) = [0, 0] ∧
    (nextLoads r1 2 (beAt 4 1 1 1 1 4 2) = [4, 1] ∧ (4 : Word32) ≠ 0 ∧ (4 : Word32) - 0 ≤ 4 ∧ 1 ≤ ((1 : Word32) - 0).toNat ∧
      (beAt 4 1 1 1 1 4 2).copyDraws false 0 = false) ∧
    (nextLoads r1 2 (beAt 8 8 8 8 8 0 2) = [8, 8] ∧ ((8 : Word32) - 0).toNat ≤ 2 ^ eight.params.capLog2.val ∧
      (beAt 8 8 8 8 8 0 2).copyDraws false 0 = false) ∧
    nextLoads r1 2 (beAt 4 0 0 0 0 4 2) = [4, 0] ∧
    nextLoads r1 2 (beAt 8 9 9 9 9 0 2) = [8, 9] ∧ 2 ^ eight.params.capLog2.val < ((9 : Word32) - 0).toNat := by decide

/-- A skip over the threshold with MARGIN one below the lag, and over CAP. Then, behind a cursor at 20 - 8 = 12: a third load of 12
(lag 0); a read whose load is 1 and CAP ahead; a read whose load is 12 (lag 0) and CAP + 1 ahead, then the jump (V-B8). -/
theorem witness_BeTickSkipsForward :
    (nextLoads r1 5 (beAt 5 5 5 5 5 4 4) = [5, 5, 5, 5, 5] ∧ (4 : Word32) ≠ 0 ∧ (4 : Word32) < 5 - 0) ∧
    (nextLoads r1 5 (beAt 9 20 12 12 12 0 8) = [9, 20, 12, 12, 12] ∧ 2 ^ eight.params.capLog2.val < ((9 : Word32) - 0).toNat ∧
      (8 : Word32) < 20 - 0 ∧ (12 : Word32) = 20 - 8) ∧
    (nextLoads r1 5 (beAt 20 20 20 13 13 0 8) = [20, 20, 20, 13, 13] ∧ (20 : Word32) ≠ 20 - 8 ∧ 1 ≤ ((13 : Word32) - (20 - 8)).toNat ∧
      (beAt 20 20 20 13 13 0 8).copyDraws false 12 = false) ∧
    (nextLoads r1 5 (beAt 20 20 20 20 20 0 8) = [20, 20, 20, 20, 20] ∧ ((20 : Word32) - (20 - 8)).toNat ≤ 2 ^ eight.params.capLog2.val ∧
      (beAt 20 20 20 20 20 0 8).copyDraws false 12 = false) ∧
    nextLoads r1 5 (beAt 20 20 20 12 30 0 8) = [20, 20, 20, 12, 30] ∧
    nextLoads r1 5 (beAt 20 20 20 21 21 0 8) = [20, 20, 20, 21, 21] ∧ 2 ^ eight.params.capLog2.val < ((21 : Word32) - (20 - 8)).toNat := by
  decide

/-- A skip that MARGIN holds back, the second lag being MARGIN; then the three ways on, with the cursor at 0. -/
theorem witness_BeTickNeverSkipsBackward : ((1 : Word32) ≠ 0 ∧ (1 : Word32) < 3 - 0 ∧ (3 : Word32) - 0 ≤ 3) ∧
    nextLoads r1 5 (beAt 3 3 0 0 0 1 3) = [3, 3, 0, 0, 0] ∧
    (nextLoads r1 5 (beAt 3 3 3 3 3 1 3) = [3, 3, 3, 3, 3] ∧ (beAt 3 3 3 3 3 1 3).copyDraws false 0 = false) ∧
    nextLoads r1 5 (beAt 3 3 3 0 7 1 3) = [3, 3, 3, 0, 7] ∧
    (nextLoads r1 5 (beAt 9 9 9 9 10 0 9) = [9, 9, 9, 9, 10] ∧ 2 ^ eight.params.capLog2.val < ((9 : Word32) - 0).toNat) := by decide

/-- A block in which R1's best-effort tick is about to jump. -/
def jumping : State := parked r1 [.beJump 1] (faulted 2 5 1 ((atW 20 eight).setCtx 1 (soft 0 4 2 40)))

theorem jumping_left : mayBeLeft (.beTick 1) [.beJump 1] := .inr (.inr (.inr (.inr (.inl rfl))))

theorem jumping_runs : jumping.nextRuns r1 (.beTick 1) :=
  parked_runs r1 (.beTick 1) [.beJump 1] _ (by decide) jumping_left ⟨rfl, by decide⟩

theorem jumping_steps : step jumping = .next (stepped jumping) := step_of_runs _ _ _ jumping_runs

/-- A best-effort tick of R1 that skips. -/
def skipping : State := beAt 20 20 20 20 20 0 2

theorem witness_BeDropped : skipping.unlimited ∧ skipping.admitsCommand (.beDropped 1) :=
  ⟨rfl, admits_of_passing _ _ (by decide)⟩

theorem witness_BestEffort : Instr.beTick 1 ∈ [Instr.beInit 1 0 0, .beTick 1, .beDropped 1] ∧
    exec (.beTick 1) skipping = .next (after (.beTick 1) skipping) ∧ skipping.unlimited ∧
    jumping.nextRuns r1 (.beTick 1) ∧ step jumping = .next (stepped jumping) :=
  ⟨by simp, exec_after _ _, rfl, jumping_runs, jumping_steps⟩

theorem witness_DroppedNeverDecreases : (∀ a b, Instr.beTick 1 ≠ .beInit 1 a b) ∧
    exec (.beTick 1) skipping = .next (after (.beTick 1) skipping) ∧ jumping.threadsOwned ∧ ¬ jumping.resetsNext ∧
    (∀ g a b, ¬ jumping.nextRuns g (.beInit 1 a b)) ∧ step jumping = .next (stepped jumping) := by
  refine ⟨by simp, exec_after _ _, parked_owned r1 (.beTick 1) _ _ rfl jumping_left ⟨rfl, by decide⟩, ?_, ?_, jumping_steps⟩
  · rintro ⟨rest, h⟩; cases h
  · rintro g a b ⟨slice, rest, h1, rfl, h3, h4⟩
    cases h1
    have h5 : [Op.beJump 1] <:+ [Op.beInit 1 (operandWord a) (operandWord b)] := h4.1.1
    exact absurd (h5.subset (List.mem_singleton_self _)) (by simp)

theorem witness_FltSet : (served .operator (faulted 1 1 0xFFFFFFFF eight)).unlimited ∧
    (served .operator (faulted 1 1 0xFFFFFFFF eight)).admitsCommand (.fltSet 4 7) :=
  ⟨rfl, admits_of_passing _ _ (by decide)⟩

theorem witness_FltClear : (served .operator (faulted 4 7 1 eight)).unlimited ∧
    (served .operator (faulted 4 7 1 eight)).issuer = .operator := ⟨rfl, rfl⟩

/-- R1, asking for the values before O's FLT_SET, which it may still load. -/
theorem witness_FaultObservers : (servedOld r1 [1] (after (.fltSet 4 7) (served .operator eight))).unlimited ∧
    (servedOld r1 [1] (after (.fltSet 4 7) (served .operator eight))).turn.ages.headD 0 = 1 ∧
    (1 ≤ (after (.fltSet 4 7) (served .operator eight)).active.top - ((after (.fltSet 4 7) (served .operator eight)).view r1).active ∧
    1 ≤ (after (.fltSet 4 7) (served .operator eight)).code.top - (after (.fltSet 4 7) (served .operator eight)).seenCode r1 ∧
    1 ≤ (after (.fltSet 4 7) (served .operator eight)).data.top - (after (.fltSet 4 7) (served .operator eight)).seenData r1 ∧
    1 ≤ (after (.fltSet 4 7) (served .operator eight)).count.top - (after (.fltSet 4 7) (served .operator eight)).seenCount r1) :=
  ⟨rfl, rfl, by decide⟩

/-- O's FLT_CLEAR has cleared ACTIVE, and another fault has been set since; what is left of it still clears CODE and DATA. -/
def clearing : State := parked .operator [.storeCode 0, .storeData 0] (faulted 2 5 1 eight)

theorem clearing_left : mayBeLeft .fltClear [.storeCode 0, .storeData 0] := ⟨[.storeActive false], rfl⟩

/-- FLT_CLEAR by P, which it is refused to; a step that goes on with an FLT_CLEAR past its clearing of ACTIVE. -/
theorem witness_FaultIsSticky : ¬ (Instr.fltClear = .fltClear ∧ (faulted 4 7 1 eight).issuer = .operator) ∧
    exec .fltClear (faulted 4 7 1 eight) = .next (after .fltClear (faulted 4 7 1 eight)) ∧ (faulted 4 7 1 eight).active.cur = 1 ∧
    clearing.active.cur = 1 ∧ clearing.threadsOwned ∧ ¬ clearing.resetsNext ∧ ¬ clearing.clearsNext ∧
    step clearing = .next (stepped clearing) := by
  refine ⟨by decide, exec_after _ _, rfl, rfl, parked_owned .operator .fltClear _ _ rfl clearing_left rfl, ?_, ?_,
    step_of_runs _ _ _ (parked_runs .operator .fltClear _ _ rfl clearing_left rfl)⟩
  · rintro ⟨rest, h⟩; cases h
  · rintro ⟨slice, rest, h1, h2, h3 | h3⟩
    · rw [State.opsLeft, show clearing.port .operator = _ from parked_port .operator _ _] at h3
      simp [Thread.start] at h3
    · rw [show clearing.port .operator = _ from parked_port .operator _ _] at h3
      simp at h3

theorem witness_FaultRecordHasFourWriters : (∀ k, Instr.beTick 1 ≠ .hrtTick k) ∧ (∀ a b, Instr.beTick 1 ≠ .prodTick a b) ∧
    (∀ a b, Instr.beTick 1 ≠ .fltSet a b) ∧ Instr.beTick 1 ≠ .fltClear ∧
    exec (.beTick 1) skipping = .next (after (.beTick 1) skipping) ∧ jumping.nextRuns r1 (.beTick 1) ∧ step jumping = .next (stepped jumping) :=
  ⟨by simp, by simp, by simp, by simp, exec_after _ _, jumping_runs, jumping_steps⟩

/-- R1 loads the flag O has set, then the record, asking for older values. -/
theorem witness_FaultFlagPublishes : (served .operator eight).unlimited ∧ (served .operator eight).admitsCommand (.fltSet 4 7) ∧
    exec (.fltSet 4 7) (served .operator eight) = .next (after (.fltSet 4 7) (served .operator eight)) ∧
    ([] : List Nat).headD 0 = 0 ∧
    exec .fltActive (served r1 (after (.fltSet 4 7) (served .operator eight))) =
      .next (after .fltActive (served r1 (after (.fltSet 4 7) (served .operator eight)))) ∧
    answer .fltCode { after .fltActive (served r1 (after (.fltSet 4 7) (served .operator eight))) with
      turn := { agent := r1, budget := none, ages := [1] } } = some ⟨.ok, .ok, 4⟩ :=
  ⟨rfl, admits_of_passing _ _ (by decide), exec_after _ _, rfl, exec_after _ _, by decide⟩

theorem witness_DitDuration : (255 : BitVec 8) ≠ 0 := by decide

theorem witness_IamCfg : eight.unlimited ∧ eight.admitsCommand (.iamCfg 0x7FF) := ⟨rfl, admits_of_passing _ _ (by decide)⟩

theorem witness_IamTick : (ready eight).unlimited ∧ (ready eight).admitsCommand (.iamTick 0xFFFFFFFFFFFFFFFF 3) :=
  ⟨rfl, admits_of_passing _ _ (by decide)⟩

/-- The FSM inside a dit that ends at 60000. -/
def inDit : Iambic := { keyer20 with st := .sendDit, deadline := 60000, key := true }

theorem witness_TickBeforeTheDeadline : inDit.st ≠ .idle ∧ (59999 : Word64) < inDit.deadline := by decide

theorem witness_TickAtTheDeadline : (inDit.st = .sendDit ∨ inDit.st = .sendDah) ∧ inDit.deadline ≤ (60000 : Word64) := by decide

/-- The FSM in a gap that ends at 120000, with the dah memory enabled. -/
def inGap : Iambic :=
  { keyer20 with st := .gap, deadline := 120000, cfg := { keyer20.cfg with dahMemEn := true } }

/-- In IDLE with a paddle, in IDLE with none, and at the end of a gap with a memory armed on the same tick. -/
theorem witness_IdleEvaluation : keyer20.st = .idle ∧
    (false = true ↔ keyer20.ditMem = true ∨ keyer20.st = .gap ∧ ((1 : Paddles) = 1 ∨ (1 : Paddles) = 3) ∧ keyer20.cfg.ditMemEn = true) ∧
    inGap.deadline ≤ (120000 : Word64) ∧
    (true = true ↔ inGap.dahMem = true ∨ inGap.st = .gap ∧ ((2 : Paddles) = 2 ∨ (2 : Paddles) = 3) ∧ inGap.cfg.dahMemEn = true) := by
  decide

theorem witness_ModeA : inDit.cfg.modeB = false := rfl

theorem witness_ProdTickIs : (ready eight).unlimited ∧ (ready eight).admitsCommand (.prodTick 0 1) ∧
    ((ready eight).port (ready eight).issuer).thread = none ∧
    exec (.push ((((ready eight).fsm.tick 0 1).output 1).zeroExtend 64)) { ready eight with fsm := (ready eight).fsm.tick 0 1 } =
      .next (after (.push 0x101) { ready eight with fsm := (ready eight).fsm.tick 0 1 }) ∧
    exec (.hrtTick 0) (after (.push 0x101) { ready eight with fsm := (ready eight).fsm.tick 0 1 }) =
      .next (after (.hrtTick 0) (after (.push 0x101) { ready eight with fsm := (ready eight).fsm.tick 0 1 })) ∧
    answer (.hrtTick 0) (after (.push 0x101) { ready eight with fsm := (ready eight).fsm.tick 0 1 }) =
      some ⟨.ok, .ok, 0x0000000003000101⟩ :=
  ⟨rfl, admits_of_passing _ _ (by decide), by decide,
    (exec_after _ _).trans (by rw [show (((ready eight).fsm.tick 0 1).output 1).zeroExtend 64 = (0x101 : Word64) by decide]),
    exec_after _ _, by decide⟩

/-- V-P5: O has just set the flag, which P has not loaded. -/
theorem witness_ProdTickUnderAFault : (served .producer (after (.fltSet 4 1) (served .operator (ready eight)))).unlimited ∧
    (served .producer (after (.fltSet 4 1) (served .operator (ready eight)))).admitsCommand (.prodTick 0 1) ∧
    (((served .producer (after (.fltSet 4 1) (served .operator (ready eight)))).acqLoadActive .producer).1 = true ∧
    (((served .producer (after (.fltSet 4 1) (served .operator (ready eight)))).acqLoadActive .producer).2.acqLoadActive .producer).1 = true) :=
  ⟨rfl, admits_of_passing _ _ (by decide), by decide⟩

/-- With a lag of 1 and nothing pending, with ticks pending and a lag of 0, and with values P has not seen. -/
theorem witness_ProdTickKeepsTheLagBounded : (ready (atW 5 eight)).unlimited ∧ (ready (atW 5 eight)).admitsCommand (.prodTick 0 1) ∧
    (ready (atW 5 eight)).active.cur = 0 ∧ (ready (atW 5 eight)).seesActive .producer ∧ (ready (atW 5 eight)).seesW .producer ∧
    (ready (atW 5 eight)).pw = (ready (atW 5 eight)).w.cur ∧ (ready (atW 5 eight)).strmInitRunning = false ∧
    1 ≤ eight.params.capLog2.val ∧ 2 ≤ ((ready (atW 5 eight)).ctx 0).maxLag.toNat ∧
    ((ready (atW 5 eight)).w.cur - ((ready (atW 5 eight)).ctx 0).cur).toNat ≤ 1 ∧
    ((pending 3 0 (ready (atW 5 eight))).idleCnt ≠ 0 ∧
      (pending 3 0 (ready (atW 5 eight))).w.cur = ((pending 3 0 (ready (atW 5 eight))).ctx 0).cur) ∧
    (((ready (atW 5 eight)).setCtx 0 (hard 4 2)).w.cur - (((ready (atW 5 eight)).setCtx 0 (hard 4 2)).ctx 0).cur).toNat = 1 ∧
    ((ready (atW 5 eight)).setCtx 0 (hard 4 2)).idleCnt = 0 ∧ (ready (atW 5 eight)).asksForLatest ∧
    ¬ ({ ready (atW 5 eight) with active := { cur := 0, rel := View.zero, past := [(1, View.zero)] } } : State).seesActive .producer :=
  ⟨rfl, admits_of_passing _ _ (by decide), rfl, Nat.zero_le _, Nat.zero_le _, by decide, by decide, by decide, by decide, by decide,
    by decide, by decide, rfl, rfl, by unfold State.seesActive; decide⟩

/-- P's push has still to publish its slot. -/
def publishing : State := parked .producer [.publish, .setLast 0x1000001] { four with pw := 1 }

theorem publishing_runs : publishing.nextRuns .producer (.push 1) :=
  parked_runs .producer (.push 1) _ _ rfl ⟨0, 0x1000001, [.slotWriteBegin, .slotWriteEnd 0x1000001], rfl⟩ rfl

theorem witness_OutputLatch : (∀ a b, Instr.push 1 ≠ .prodTick a b) ∧ exec (.push 1) four = .next (after (.push 1) four) ∧
    four.outLatch = false ∧ (∀ a, Instr.push 1 ≠ .iamCfg a) ∧ (∀ a b, Instr.push 1 ≠ .iamTick a b) ∧
    publishing.nextRuns .producer (.push 1) ∧ step publishing = .next (stepped publishing) :=
  ⟨by simp, exec_after _ _, rfl, by simp, by simp, publishing_runs, step_of_runs _ _ _ publishing_runs⟩

theorem witness_OnlyTheProducer : skipping.issuer ≠ .producer ∧ exec (.beTick 1) skipping = .next (after (.beTick 1) skipping) ∧
    Instr.flush ∈ [Instr.strmInit, .push 0, .pushRaw 0, .flush] ∧ exec .flush skipping = .next (after .flush skipping) ∧
    r1 ≠ .producer ∧ jumping.nextRuns r1 (.beTick 1) ∧ step jumping = .next (stepped jumping) :=
  ⟨by decide, exec_after _ _, by simp, exec_after _ _, by decide, jumping_runs, jumping_steps⟩

theorem witness_ContextsArePrivate : skipping.issuer.ownContext ≠ some 0 ∧ exec (.beTick 1) skipping = .next (after (.beTick 1) skipping) ∧
    r1.ownContext ≠ some 0 ∧ jumping.nextRuns r1 (.beTick 1) ∧ step jumping = .next (stepped jumping) :=
  ⟨by decide, exec_after _ _, by decide, jumping_runs, jumping_steps⟩

/-! ### The invariants hold in a state in the middle of things -/

/-- P has begun a slot write of index 0 and is switched out; R1 is next to read. -/
def midWrite : State :=
  { four with
    pw := 1
    ports := [(0, { Port.idle with thread := some (Thread.start [.slotWriteEnd 0x1000001, .publish, .setLast 0x1000001] 1) })]
    inboxes := [(1, [encode (.read 0)])]
    turns := [.serve { agent := r1, budget := none, ages := [] }] }

theorem midWrite_others (a : Agent) (ha : a ≠ .producer) : midWrite.port a = Port.idle := by
  cases a with
  | producer => exact absurd rfl ha
  | reader n => simp [State.port, midWrite, sparseGet, Agent.index]
  | operator => decide

theorem midWrite_views (a : Agent) : midWrite.view a = View.zero ∧ midWrite.loaded a = Loaded.zero := by
  by_cases ha : a = .producer
  · subst ha; exact ⟨rfl, rfl⟩
  · rw [State.view, State.loaded, midWrite_others a ha]; exact ⟨rfl, rfl⟩

theorem witness_step : step midWrite = .next (stepped midWrite) := by
  have h : step midWrite = exec (.read 0) ((midWrite.serving { agent := r1, budget := none, ages := [] } []).setInbox r1 []) := rfl
  rw [stepped, h, exec_after]

theorem midWrite_threads (a : Agent) (th : Thread) (h : (midWrite.port a).thread = some th) :
    a = .producer ∧ th = Thread.start [.slotWriteEnd 0x1000001, .publish, .setLast 0x1000001] 1 := by
  by_cases ha : a = .producer
  · subst ha; exact ⟨rfl, (Option.some.inj h).symm⟩
  · rw [midWrite_others a ha] at h; cases h

theorem witness_threadsLegal : midWrite.threadsLegal := by
  intro a th h op hop
  rw [(midWrite_threads a th h).2] at hop
  simp only [Thread.start, List.mem_cons, List.not_mem_nil, or_false] at hop
  rcases hop with rfl | rfl | rfl <;> simp only [Op.legal] <;> decide

theorem witness_threadsOwned : midWrite.threadsOwned := by
  intro a th h
  obtain ⟨rfl, rfl⟩ := midWrite_threads a th h
  exact ⟨.push 1, ⟨⟨0, 0x1000001, [.slotWriteBegin], rfl⟩, fun e => by simp [Thread.start] at e⟩, rfl⟩

theorem witness_storageCanonical : midWrite.storageCanonical := by
  unfold State.storageCanonical; decide

theorem witness_samplesLegal : midWrite.samplesLegal ∧ midWrite.codesLegal := by
  refine ⟨⟨fun n => ?_, by decide, by decide⟩, by decide, by simp [midWrite, four, State.resetWith, Cell.zero]⟩
  have h : midWrite.slot n = 0 := rfl
  rw [h]; decide

theorem witness_fsmInStep : midWrite.fsm.inStep := by unfold Iambic.inStep; decide

theorem witness_writerInStep : midWrite.writerInStep := by
  refine ⟨⟨.begun, ?_, rfl⟩, Nat.zero_le _, fun a ha op hop => ?_⟩
  · show continuesFrom .begun [.slotWriteEnd 0x1000001, .publish, .setLast 0x1000001]
    simp [continuesFrom, WritePhase.after]
  · simp [State.opsLeft, midWrite_others a ha, Port.idle] at hop

theorem witness_viewsWithin : midWrite.viewsWithin := by
  refine ⟨fun a => ?_, ⟨?_, ?_⟩, ?_, ?_⟩
  · rw [(midWrite_views a).1, (midWrite_views a).2]; simp [View.within, View.zero, Loaded.within, Loaded.zero]
  · simp [View.within, View.zero, midWrite, four, State.resetWith, Cell.zero]
  · simp [midWrite, four, State.resetWith, Cell.zero]
  · simp [View.within, View.zero, midWrite, four, State.resetWith, Cell.zero]
  · simp [midWrite, four, State.resetWith, Cell.zero]

end Sys2Proof.Tests
end

section
/-!
PROOF of O9 (20_memory.md R100): a command that is switched out and goes on does what it does when it is not switched out. Going on
changes the state in two places, the budget of the slice and the agent's own port, which is written again as it stands (so that a port
table in no canonical form may change as data). Every entry of a command commutes with that change, and so does the end of the command.
-/

namespace Sys2Proof.Machine

/-! ### Tables under a map of their values -/

section Sparse
variable {α : Type} {f : α → α}

theorem sparseErase_map (l : List (Nat × α)) (k : Nat) :
    sparseErase (l.map fun e => (e.1, f e.2)) k = (sparseErase l k).map fun e => (e.1, f e.2) := by
  induction l with
  | nil => rfl
  | cons e rest ih =>
    by_cases h : e.1 = k
    · simp [sparseErase, h, ih]
    · simp [sparseErase, h, ih]

theorem sparseInsert_map (l : List (Nat × α)) (k : Nat) (v : α) :
    sparseInsert k (f v) (l.map fun e => (e.1, f e.2)) = (sparseInsert k v l).map fun e => (e.1, f e.2) := by
  induction l with
  | nil => rfl
  | cons e rest ih =>
    by_cases h : k < e.1
    · simp [sparseInsert, h]
    · simp [sparseInsert, h, ih]

/-- A map that gives the default value for the default value alone maps a written table to the written map of the table. -/
theorem sparsePut_map [DecidableEq α] {d : α} (hf : ∀ v, f v = d ↔ v = d) (l : List (Nat × α)) (k : Nat) (v : α) :
    sparsePut d (l.map fun e => (e.1, f e.2)) k (f v) = (sparsePut d l k v).map fun e => (e.1, f e.2) := by
  by_cases h : v = d
  · simp only [sparsePut, if_pos h, if_pos ((hf v).2 h), sparseErase_map]
  · simp only [sparsePut, if_neg h, if_neg fun e => h ((hf v).1 e), sparseErase_map, sparseInsert_map]

end Sparse

/-! ### The state in which an agent goes on -/

/-- The same slice with another budget. -/
def State.withBudget (s : State) (b : Option Nat) : State := { s with turn := { s.turn with budget := b } }

/-- Agent `a` is not switched out any more, and its port is written again as it stands. -/
def State.continued (s : State) (a : Agent) : State := (s.withBudget none).setPort a (s.port a)

/-- Agent `a` is served without a limit: it goes on with its command in progress, if it has one. -/
def State.goOn (s : State) (a : Agent) : State :=
  match (s.port a).thread with
  | some th => (s.withBudget none).resume a th
  | none => s.withBudget none

theorem State.goOn_of_thread {s : State} {a : Agent} {th : Thread} (h : (s.port a).thread = some th) :
    s.goOn a = (s.withBudget none).resume a th := by simp only [State.goOn, h]

theorem State.goOn_of_idle {s : State} {a : Agent} (h : (s.port a).thread = none) : s.goOn a = s.withBudget none := by
  simp only [State.goOn, h]

@[simp] theorem State.port_withBudget (s : State) (b : Option Nat) (a : Agent) : (s.withBudget b).port a = s.port a := rfl

@[simp] theorem State.port_continued (s : State) (a b : Agent) : (s.continued a).port b = s.port b := by
  by_cases h : b = a
  · subst h; simp [State.continued]
  · simp [State.continued, State.port_setPort_other _ _ h]

@[simp] theorem State.view_continued (s : State) (a b : Agent) : (s.continued a).view b = s.view b := by simp [State.view]

@[simp] theorem State.loaded_continued (s : State) (a b : Agent) : (s.continued a).loaded b = s.loaded b := by
  simp [State.loaded]

@[simp] theorem State.params_continued (s : State) (a : Agent) : (s.continued a).params = s.params := rfl
@[simp] theorem State.w_continued (s : State) (a : Agent) : (s.continued a).w = s.w := rfl
@[simp] theorem State.ctx_continued (s : State) (a : Agent) (k : CtxIdx) : (s.continued a).ctx k = s.ctx k := rfl

theorem State.spend_continued (s : State) (a : Agent) : s.spend.continued a = s.continued a := rfl

/-! ### Every state operation commutes with going on -/

section Operations
variable (s : State) (a : Agent)

theorem setPort_continued (p : Port) : (s.continued a).setPort a p = (s.setPort a p).continued a := by
  calc (s.continued a).setPort a p
      = (s.withBudget none).setPort a p := State.setPort_setPort (s.withBudget none) a (s.port a) p
    _ = ((s.withBudget none).setPort a p).setPort a p := (State.setPort_setPort (s.withBudget none) a p p).symm
    _ = (s.setPort a p).continued a := by rw [State.continued, State.port_setPort_same]; rfl

theorem setView_continued (v : View) : (s.continued a).setView a v = (s.setView a v).continued a := by
  rw [State.setView, State.port_continued, setPort_continued]; rfl

theorem setLoaded_continued (l : Loaded) : (s.continued a).setLoaded a l = (s.setLoaded a l).continued a := by
  rw [State.setLoaded, State.port_continued, setPort_continued]; rfl

theorem acqLoadW_continued : (s.continued a).acqLoadW a = ((s.acqLoadW a).1, (s.acqLoadW a).2.continued a) := by
  have h := setView_continued s.dropAge a
  simp only [State.acqLoadW, ← h, State.view_continued]
  rfl

theorem acqLoadActive_continued :
    (s.continued a).acqLoadActive a = ((s.acqLoadActive a).1, (s.acqLoadActive a).2.continued a) := by
  have h := setView_continued s.dropAge a
  simp only [State.acqLoadActive, ← h, State.view_continued]
  rfl

theorem rlxLoadCode_continued :
    (s.continued a).rlxLoadCode a = ((s.rlxLoadCode a).1, (s.rlxLoadCode a).2.continued a) := by
  have h := setLoaded_continued s.dropAge a
  simp only [State.rlxLoadCode, ← h, State.seenCode, State.view_continued, State.loaded_continued]
  rfl

theorem rlxLoadData_continued :
    (s.continued a).rlxLoadData a = ((s.rlxLoadData a).1, (s.rlxLoadData a).2.continued a) := by
  have h := setLoaded_continued s.dropAge a
  simp only [State.rlxLoadData, ← h, State.seenData, State.view_continued, State.loaded_continued]
  rfl

theorem rlxLoadCount_continued :
    (s.continued a).rlxLoadCount a = ((s.rlxLoadCount a).1, (s.rlxLoadCount a).2.continued a) := by
  have h := setLoaded_continued s.dropAge a
  simp only [State.rlxLoadCount, ← h, State.seenCount, State.view_continued, State.loaded_continued]
  rfl

theorem relStoreW_continued (x : Word32) : (s.continued a).relStoreW a x = (s.relStoreW a x).continued a := by
  simp only [State.relStoreW, State.view_continued]
  exact setView_continued { s with w := _ } a _

theorem relStoreActive_continued (b : Bool) : (s.continued a).relStoreActive a b = (s.relStoreActive a b).continued a := by
  simp only [State.relStoreActive, State.view_continued]
  exact setView_continued { s with active := _ } a _

theorem rlxStoreCode_continued (c : BitVec 8) : (s.continued a).rlxStoreCode a c = (s.rlxStoreCode a c).continued a := by
  simp only [State.rlxStoreCode, State.view_continued]
  exact setView_continued { s with code := _ } a _

theorem rlxStoreData_continued (d : Word32) : (s.continued a).rlxStoreData a d = (s.rlxStoreData a d).continued a := by
  simp only [State.rlxStoreData, State.view_continued]
  exact setView_continued { s with data := _ } a _

theorem fetchAddCount_continued : (s.continued a).fetchAddCount a = (s.fetchAddCount a).continued a := by
  simp only [State.fetchAddCount, State.view_continued]
  exact setView_continued { s with count := _ } a _

theorem copySlot_continued (o : Bool) (i : LogIdx) :
    (s.continued a).copySlot o i = ((s.copySlot o i).1, (s.copySlot o i).2.continued a) := by
  have h : (s.continued a).copyDraws o i = s.copyDraws o i := by
    simp only [State.copyDraws, State.strmInitRunning, State.port_continued]; rfl
  unfold State.copySlot
  rw [h]
  split <;> rfl

theorem readSucceeded_continued (r : Reader) (v : Sample) (th : Thread) :
    readSucceeded r v th (s.continued a) = ((readSucceeded r v th s).1, (readSucceeded r v th s).2.continued a) := by
  cases r <;> rfl

theorem readFailed_continued (r : Reader) (w : Word32) (th : Thread) :
    readFailed r w th (s.continued a) = ((readFailed r w th s).1, (readFailed r w th s).2.continued a) := by
  cases r with
  | plain => rfl
  | hrt k => rfl
  | be k skipped => cases skipped <;> rfl

theorem takeLatch_continued (k : Kind) (v : Word64) : (s.continued a).takeLatch k v = (s.takeLatch k v).continued a := by
  unfold State.takeLatch; split <;> rfl

/-- This rests on a marked port being idle exactly when it was: the mark changes only a command in progress (20_memory.md R112). -/
theorem markOverlapped_continued : (s.continued a).markOverlapped = s.markOverlapped.continued a := by
  have hidle : ∀ p : Port, { p with thread := p.thread.map fun th => { th with overlapped := true } } = Port.idle ↔
      p = Port.idle := by
    rintro ⟨thread, response, view, loaded⟩
    cases thread <;> simp [Port.idle]
  have hput := sparsePut_map hidle s.ports a.index (s.port a)
  simp only [State.continued, port_markOverlapped]
  simp only [State.markOverlapped, State.setPort, State.withBudget] at hput ⊢
  rw [hput]

end Operations

/-- An entry does the same in the state in which its agent goes on. -/
theorem perform_continued (op : Op) (a : Agent) (th : Thread) (s : State) :
    op.perform a th (s.continued a) = ((op.perform a th s).1, (op.perform a th s).2.continued a) := by
  cases op <;> simp only [Op.perform, runReadLoad, runSlotCopy, runHrtInit, runHrtFlag, runHrtLag, runHrtOverrun, runHrtResync,
    runBeInit, runBeLag, runBeSkip, runBeAgain, runBeJump, runFaultCheck, State.publish, acqLoadW_continued,
    acqLoadActive_continued, rlxLoadCode_continued, rlxLoadData_continued, rlxLoadCount_continued, relStoreW_continued,
    relStoreActive_continued, rlxStoreCode_continued, rlxStoreData_continued, fetchAddCount_continued, copySlot_continued,
    readSucceeded_continued, readFailed_continued, takeLatch_continued, State.params_continued, State.w_continued,
    State.ctx_continued]
  case strmZero => exact Prod.ext rfl (markOverlapped_continued s.zeroStream a)
  case strmPublish => exact Prod.ext rfl (markOverlapped_continued (s.relStoreW a 0#32) a)
  all_goals (repeat' split) <;> rfl

/-! ### A run cut and gone on with -/

/-- No entry puts a command in progress on its agent's port. -/
theorem perform_noThread (op : Op) (a : Agent) (th : Thread) (s : State) (h : (s.port a).thread = none) :
    ((op.perform a th s).2.port a).thread = none := by
  by_cases ht : tame op
  · rw [perform_thread op a th s ht, h]
  · have hview : ∀ (u : State) v, (u.port a).thread = none → ((u.setView a v).port a).thread = none := fun u v hu => by
      simp [hu]
    have hmark : ∀ u : State, (u.port a).thread = none → (u.markOverlapped.port a).thread = none := fun u hu => by
      simp [port_markOverlapped, hu]
    cases op
    case strmZero => exact hmark s.zeroStream h
    case strmPublish => exact hmark (s.relStoreW a 0#32) (hview { s with w := _ } _ h)
    case latch =>
      obtain ⟨b, hb⟩ := takeLatch_frame s th.kind th.value
      simp only [Op.perform, hb]
      exact h
    case faultCheck x =>
      simp only [Op.perform, runFaultCheck]
      split <;> exact hview s.dropAge _ h
    all_goals exact absurd (by simp [tame]) ht

/-- What is left of a command weighs less after each entry. -/
theorem perform_weight_lt {op : Op} {rest : List Op} {th : Thread} (ho : th.ops = op :: rest) (a : Agent) (s : State) :
    opsWeight (op.perform a { th with ops := rest } s).1.ops < opsWeight th.ops := by
  have h : opsWeight (op.perform a { th with ops := rest } s).1.ops + 1 ≤ opWeight op + opsWeight rest :=
    op.perform_weight a { th with ops := rest } s
  rw [ho, opsWeight_cons]
  omega

theorem withBudget_of_unlimited (s : State) (h : s.unlimited) : s.withBudget none = s := by
  have hturn : ({ s.turn with budget := none } : Slice) = s.turn := by rw [← h]
  rw [State.withBudget, hturn]

/-- The end of a command writes its agent's port whole, so that only the budget remains of going on. -/
theorem finish_continued (s : State) (a : Agent) (th : Thread) :
    (s.continued a).finish a th = (s.finish a th).withBudget none := by
  rw [State.finish, State.respond, State.port_continued, State.continued, State.setPort_setPort]
  rfl

/-- Taking what is left of a command off the port it waits on gives the state in which its agent goes on. -/
theorem resume_park (s : State) (a : Agent) (th : Thread) (hidle : (s.port a).thread = none) :
    ((s.park a th).withBudget none).resume a th = drive a sliceFuel th (s.continued a) := by
  have hport : ({ { s.port a with thread := some th } with thread := none } : Port) = s.port a := by rw [← hidle]
  have hstate : ((s.park a th).withBudget none).setPort a (s.port a) = s.continued a :=
    State.setPort_setPort (s.withBudget none) a { s.port a with thread := some th } (s.port a)
  rw [State.resume, State.port_withBudget, State.port_park_same, hport, hstate]

/-- A command not switched out leaves the same in the state in which its agent goes on. -/
theorem drive_continued (a : Agent) (n : Nat) (th : Thread) (s : State) (hb : s.unlimited) (hw : opsWeight th.ops < n) :
    drive a n th (s.continued a) = drive a n th s := by
  induction n generalizing th s with
  | zero => omega
  | succ n ih =>
    cases ho : th.ops with
    | nil => rw [drive_done a n th _ ho, drive_done a n th _ ho, finish_continued,
        withBudget_of_unlimited (s.finish a th) hb]
    | cons op rest =>
      have hlt := perform_weight_lt ho a s
      rw [drive_cons a n op rest th _ ho rfl, drive_cons a n op rest th s ho hb, perform_continued]
      exact ih _ _ ((Op.perform_budget op a _ s).trans hb) (lt_of_lt_of_le hlt (Nat.le_of_lt_succ hw))

/-- A command may be switched out anywhere: its agent then goes on to what the command leaves when the agent goes on at once. -/
theorem goOn_drive (a : Agent) (n : Nat) (th : Thread) (s : State) (hidle : (s.port a).thread = none)
    (hw : opsWeight th.ops < n) (hf : opsWeight th.ops < sliceFuel) :
    (drive a n th s).goOn a = drive a n th (s.continued a) := by
  induction n generalizing th s with
  | zero => omega
  | succ n ih =>
    cases ho : th.ops with
    | nil => rw [drive_done a n th _ ho, drive_done a n th _ ho, State.goOn_of_idle (by simp), finish_continued]
    | cons op rest =>
      have hperform : ∀ u : State, (u.port a).thread = none → u.continued a = s.continued a →
          (drive a n (op.perform a { th with ops := rest } u).1 (op.perform a { th with ops := rest } u).2).goOn a =
            drive a (n + 1) th (s.continued a) := by
        intro u hu hs
        have hlt := perform_weight_lt ho a u
        rw [← hs, drive_cons a n op rest th _ ho rfl, perform_continued]
        exact ih _ _ (perform_noThread op a _ u hu) (by omega) (by omega)
      rw [drive.eq_def a (n + 1) th s]
      simp only [ho]
      split
      · exact hperform s hidle rfl
      · split
        · rw [State.goOn_of_thread (th := th) (by simp), resume_park s a th hidle]
          exact drive_fuel a _ _ th _ hf hw
        · exact hperform s.spend hidle (s.spend_continued a)

/-! ### Issuing with a budget -/

theorem checksOf_withBudget (s : State) (b : Option Nat) (i : Instr) : checksOf (s.withBudget b) i = checksOf s i := by
  cases i <;> rfl

theorem pushBody_withBudget (s : State) (b : Option Nat) (x : Sample) :
    (s.withBudget b).pushBody x = ((s.pushBody x).1, (s.pushBody x).2.1, (s.pushBody x).2.2.withBudget b) := by
  simp only [State.pushBody, show (s.withBudget b).last = s.last from rfl]
  split <;> rfl

theorem bodyOf_withBudget (s : State) (b : Option Nat) (i : Instr) :
    bodyOf (s.withBudget b) i = ((bodyOf s i).1, (bodyOf s i).2.withBudget b) := by
  cases i
  case push x => simp only [bodyOf, pushBody_withBudget]
  case prodTick now p =>
    have h := pushBody_withBudget { s with fsm := s.fsm.tick now (operandPaddles p) } b
    simp only [bodyOf, prodTickBody_eq]
    exact congrArg (fun r => (Thread.start (r.2.1 ++ _) 0, r.2.2)) (h _)
  all_goals rfl

theorem bodyOf_port (s : State) (i : Instr) (a : Agent) : (bodyOf s i).2.port a = s.port a := by
  obtain ⟨n, f, h⟩ := bodyOf_frame s i
  rw [h]; rfl

theorem bodyOf_unlimited (s : State) (i : Instr) (h : s.unlimited) : (bodyOf s i).2.unlimited := by
  obtain ⟨n, f, hbody⟩ := bodyOf_frame s i
  rw [hbody]; exact h

/-- A command issued with a budget, its agent then going on, leaves what the command leaves that is not switched out. -/
theorem goOn_exec (i : Instr) (s t u : State) (b : Option Nat) (hs : s.unlimited) (hidle : (s.port s.issuer).thread = none)
    (ht : exec i s = .next t) (hu : exec i (s.withBudget b) = .next u) : u.goOn s.issuer = t := by
  rw [exec_eq_issue] at ht hu
  rw [checksOf_withBudget] at hu
  cases hfail : firstFailure (checksOf s i) with
  | some st =>
    rw [State.issue_failing _ _ _ st hfail] at ht hu
    cases ht
    cases hu
    rw [State.goOn_of_idle (by exact congrArg Port.thread (State.port_respond_same _ s.issuer _))]
    exact withBudget_of_unlimited (s.respond s.issuer _) hs
  | none =>
    rw [State.issue_passing _ _ _ hfail] at ht hu
    cases ht
    cases hu
    rw [bodyOf_withBudget]
    have hweight := bodyOf_weight s i
    calc (drive s.issuer sliceFuel (bodyOf s i).1 ((bodyOf s i).2.withBudget b)).goOn s.issuer
        = drive s.issuer sliceFuel (bodyOf s i).1 ((bodyOf s i).2.continued s.issuer) :=
          goOn_drive _ _ _ _ ((congrArg Port.thread (bodyOf_port s i _)).trans hidle) hweight hweight
      _ = drive s.issuer sliceFuel (bodyOf s i).1 (bodyOf s i).2 :=
          drive_continued _ _ _ _ (bodyOf_unlimited s i hs) hweight

/-! ### The slice after a command -/

/-- A slice that asks for no ages asks for none after any entry. -/
theorem perform_asksForLatest (op : Op) (a : Agent) (th : Thread) (s : State) (h : s.asksForLatest) :
    (op.perform a th s).2.asksForLatest := by
  have hdrop : s.dropAge.asksForLatest := congrArg List.tail h
  cases op <;> simp only [Op.perform, runReadLoad, runHrtInit, runHrtFlag, runHrtLag, runHrtOverrun, runHrtResync, runBeInit,
    runBeLag, runBeSkip, runBeAgain, runBeJump, runFaultCheck]
  case readLoad =>
    split
    · rw [readFailed_state]; exact hdrop
    · exact hdrop
  case slotCopy i r =>
    obtain ⟨c, d, hcopy⟩ := runSlotCopy_frame i r th s
    rw [hcopy]; exact h
  case latch =>
    obtain ⟨b, hlatch⟩ := takeLatch_frame s th.kind th.value
    rw [hlatch]; exact h
  all_goals (repeat' split) <;> first | exact h | exact hdrop

/-- No entry changes which agent is served. -/
theorem perform_agent (op : Op) (a : Agent) (th : Thread) (s : State) : (op.perform a th s).2.turn.agent = s.turn.agent := by
  obtain ⟨-, -, -, hagent, -⟩ := perform_outside op a th s
  exact hagent

/-- A command of a slice that asks for no ages leaves the slice as it is but for its budget. -/
theorem exec_turn (i : Instr) (s t : State) (h : s.asksForLatest) (ht : exec i s = .next t) :
    t.withBudget none = { t with turn := { agent := s.issuer, budget := none, ages := [] } } := by
  obtain ⟨hagent, hages⟩ : t.turn.agent = s.issuer ∧ t.turn.ages = [] := by
    rcases exec_cases i s t ht with ⟨st, -, rfl⟩ | ⟨-, rfl⟩
    · exact ⟨rfl, h⟩
    · obtain ⟨n, f, hbody⟩ := bodyOf_frame s i
      obtain ⟨th, u, ⟨hagent, hages⟩, hend⟩ := drive_induct s.turn.agent
        (fun _ u => u.turn.agent = s.issuer ∧ u.asksForLatest) (fun _ _ hu => hu)
        (fun op rest th u _ ⟨hagent, hages⟩ =>
          ⟨(perform_agent op _ _ u).trans hagent, perform_asksForLatest op _ _ u hages⟩)
        sliceFuel (bodyOf s i).1 (bodyOf s i).2 (by rw [hbody]; exact ⟨rfl, h⟩)
      rcases hend with ⟨-, hend⟩ | hend <;> rw [hend] <;> exact ⟨hagent, hages⟩
  simp only [State.withBudget, hagent, hages]

/-- Settles O9: a command cut anywhere goes on to what the uncut command leaves (`goOn_exec`), and the slice that the statement serves
next is the one of the cut command without its budget (`exec_turn`). -/
theorem beingSwitchedOutIsInvisible : Obligations.BeingSwitchedOutIsInvisible := by
  intro i s t u n slice hidle hslice ht hu
  subst hslice
  have hgo := goOn_exec i _ t u (some n) (by rfl) (by exact hidle) ht hu
  have hturn := exec_turn i _ u (by rfl) hu
  rw [State.goOn, hturn] at hgo
  exact hgo

end Sys2Proof.Machine
end

section
/-!
PROOFS of the statements about the whole state (10_state.md). This first part is the layer they share: what an entry that only loads and
keeps its agent's own notes can do, what every entry does to the commands in progress, and the induction over one step of the block.
-/

namespace Sys2Proof.Machine

/-! ### What an entry does that writes neither the stream nor the fault record -/

/-- What such an entry of agent `a` is made of keeps `I`: a port written with the same command in progress and no older a view, an age
used up, the entry's own context, the latch, a draw. -/
structure KeptByQuiet (op : Op) (a : Agent) (I : State → Prop) : Prop where
  port : ∀ u p, p.thread = (u.port a).thread → (u.view a).w ≤ p.view.w → I u → I (u.setPort a p)
  age : ∀ u, I u → I u.dropAge
  ctx : ∀ u k c, op.ctxWritten = some k → I u → I (u.setCtx k c)
  latch : ∀ u b, I u → I { u with outLatch := b }
  draw : ∀ u n, I u → I { u with draws := n }

namespace KeptByQuiet

variable {op : Op} {a : Agent} {I : State → Prop} {u : State} (h : KeptByQuiet op a I)
include h

theorem setView {v : View} (hv : (u.view a).w ≤ v.w) (hu : I u) : I (u.setView a v) := h.port u _ rfl hv hu

theorem loadW (hu : I u) : I (u.acqLoadW a).2 :=
  h.setView (by simp only [View.join]; exact le_max_of_le_left (le_max_left _ _)) (h.age u hu)

theorem loadActive (hu : I u) : I (u.acqLoadActive a).2 :=
  h.setView (by simp only [View.join]; exact le_max_of_le_left (le_max_left _ _)) (h.age u hu)

theorem setLoaded {l : Loaded} (hu : I u) : I (u.setLoaded a l) := h.port u _ rfl le_rfl hu

theorem copySlot (o : Bool) (i : LogIdx) (hu : I u) : I (u.copySlot o i).2 := by
  obtain ⟨d, hd⟩ := copySlot_frame u o i
  rw [hd]; exact h.draw u d hu

theorem takeLatch (k : Kind) (v : Word64) (hu : I u) : I (u.takeLatch k v) := by
  obtain ⟨b, hb⟩ := takeLatch_frame u k v
  rw [hb]; exact h.latch u b hu

end KeptByQuiet

/-- An entry that writes neither the stream nor the fault record keeps what everything it is made of keeps. -/
theorem perform_quiet {op : Op} {a : Agent} {I : State → Prop} (h : KeptByQuiet op a I) (hstream : op.writesStream = false)
    (hfault : op.writesFault = false) (th : Thread) {s : State} (hs : I s) : I (op.perform a th s).2 := by
  have hW : I (s.acqLoadW a).2 := h.loadW hs
  have hA : I (s.acqLoadActive a).2 := h.loadActive hs
  cases op with
  | strmZero | strmPublish | slotWriteBegin | slotWriteEnd _ | publish | clearIdle | setLast _ => cases hstream
  | storeCode _ | storeData _ | countFault | storeActive _ => cases hfault
  | result _ _ => exact hs
  | wpos | lag _ | overrun _ => exact hW
  | fltActive => exact hA
  | fltCode | fltData | fltCount => exact h.setLoaded (h.age s hs)
  | readLoad i r =>
    simp only [Op.perform, runReadLoad]
    split
    · rw [readFailed_state]; exact hW
    · exact hW
  | slotCopy i r =>
    have hcopy : I (s.copySlot th.overlapped i).2 := h.copySlot _ _ hs
    simp only [Op.perform, runSlotCopy_eq]
    cases r with
    | plain => exact hcopy
    | hrt k => exact h.ctx _ k _ rfl hcopy
    | be k skipped => exact h.ctx _ k _ rfl hcopy
  | hrtInit k _ | hrtResync k | beInit k _ _ | beJump k => exact h.ctx _ k _ rfl hW
  | beSkip k =>
    simp only [Op.perform, runBeSkip]
    split
    · exact h.ctx _ k _ rfl hW
    · exact hW
  | hrtFlag k => simp only [Op.perform, runHrtFlag]; split <;> exact hA
  | hrtLag k => simp only [Op.perform, runHrtLag]; (repeat' split) <;> exact hW
  | hrtOverrun k => simp only [Op.perform, runHrtOverrun]; split <;> exact hW
  | beLag k => simp only [Op.perform, runBeLag]; (repeat' split) <;> exact hW
  | beAgain k => simp only [Op.perform, runBeAgain]; split <;> exact hW
  | latch => exact h.takeLatch _ _ hs
  | faultCheck x =>
    simp only [Op.perform, runFaultCheck]
    split
    · exact h.latch _ false hA
    · exact hA

/-! ### The commands in progress -/

/-- The thread marked as having overlapped a STRM_INIT (20_memory.md R112). -/
def Thread.marked (th : Thread) : Thread := { th with overlapped := true }

theorem thread_setPort_kept {u : State} {a : Agent} {p : Port} (h : p.thread = (u.port a).thread) (b : Agent) :
    ((u.setPort a p).port b).thread = (u.port b).thread := by
  by_cases hb : b = a
  · subst hb; rw [State.port_setPort_same, h]
  · rw [State.port_setPort_other u p hb]

/-- An entry leaves the command in progress on every port as it is, or marked (20_memory.md R112). -/
theorem perform_port_thread (op : Op) (a : Agent) (th : Thread) (s : State) (b : Agent) :
    ((op.perform a th s).2.port b).thread = (s.port b).thread ∨
      ((op.perform a th s).2.port b).thread = (s.port b).thread.map Thread.marked := by
  have hview : ∀ (u : State) v, ((u.setView a v).port b).thread = (u.port b).thread := fun u v =>
    thread_setPort_kept (p := { u.port a with view := v }) rfl b
  have hquiet : KeptByQuiet op a fun u => (u.port b).thread = (s.port b).thread :=
    { port := fun u p hp _ hu => (thread_setPort_kept hp b).trans hu
      age := fun _ hu => hu
      ctx := fun _ _ _ _ hu => hu
      latch := fun _ _ hu => hu
      draw := fun _ _ hu => hu }
  cases op with
  | strmZero => exact .inr (congrArg Port.thread (port_markOverlapped s.zeroStream b))
  | strmPublish =>
    have hmark := congrArg Port.thread (port_markOverlapped (s.relStoreW a 0#32) b)
    exact .inr (hmark.trans (congrArg (Option.map Thread.marked) (hview { s with w := _ } _)))
  | publish => exact .inl (hview { s with w := _ } _)
  | slotWriteBegin | slotWriteEnd _ | clearIdle | setLast _ => exact .inl rfl
  | storeCode c => exact .inl (hview { s with code := _ } _)
  | storeData d => exact .inl (hview { s with data := _ } _)
  | countFault => exact .inl (hview { s with count := _ } _)
  | storeActive v => exact .inl (hview { s with active := _ } _)
  | _ => exact .inl (perform_quiet hquiet rfl rfl th rfl)

/-- What is left of the commands in progress is the same after an entry of any of them. -/
theorem perform_opsLeft (op : Op) (a : Agent) (th : Thread) (s : State) (b : Agent) :
    (op.perform a th s).2.opsLeft b = s.opsLeft b := by
  unfold State.opsLeft
  rcases perform_port_thread op a th s b with h | h <;> rw [h]
  cases (s.port b).thread <;> rfl

theorem opsLeft_of_thread {s : State} {a : Agent} {th : Thread} (h : (s.port a).thread = some th) : s.opsLeft a = th.ops := by
  simp only [State.opsLeft, h]

theorem opsLeft_of_idle {s : State} {a : Agent} (h : (s.port a).thread = none) : s.opsLeft a = [] := by
  simp only [State.opsLeft, h]

/-- What is left of a command in progress is read from its agent's port. -/
theorem opsLeft_congr {s t : State} {a : Agent} (h : t.port a = s.port a) : t.opsLeft a = s.opsLeft a := by
  simp only [State.opsLeft, h]

theorem bodyOf_params (s : State) (i : Instr) : (bodyOf s i).2.params = s.params := by
  obtain ⟨n, f, h⟩ := bodyOf_frame s i
  rw [h]

theorem perform_params (op : Op) (a : Agent) (th : Thread) (s : State) : (op.perform a th s).2.params = s.params := by
  obtain ⟨h, -⟩ := perform_outside op a th s
  exact h

/-! ### The induction over one step of the block -/

/-- `I` holds between the steps and `J a th s` while agent `a` runs `th`: each thing a step does keeps them. -/
structure StepRule (I : State → Prop) (J : Agent → Thread → State → Prop) : Prop where
  reset : ∀ s rest, I s → I (s.resetBlock rest)
  serving : ∀ s slice rest, I s → I (s.serving slice rest)
  inbox : ∀ s a cs, I s → I (s.setInbox a cs)
  answer : ∀ s a r, (s.port a).thread = none → I s → I (s.respond a r)
  resume : ∀ s a th, (s.port a).thread = some th → I s → J a th (s.setPort a { s.port a with thread := none })
  issue : ∀ s i, (s.port s.issuer).thread = none → s.admitsCommand i → I s → J s.issuer (bodyOf s i).1 (bodyOf s i).2
  spend : ∀ a th s, J a th s → J a th s.spend
  perform : ∀ op rest a th s, th.ops = op :: rest → J a th s →
    J a (op.perform a { th with ops := rest } s).1 (op.perform a { th with ops := rest } s).2
  finish : ∀ a th s, th.ops = [] → J a th s → I (s.finish a th)
  park : ∀ a th s, J a th s → I (s.park a th)

namespace StepRule

variable {I : State → Prop} {J : Agent → Thread → State → Prop} (h : StepRule I J)
include h

theorem drive {a : Agent} {n : Nat} {th : Thread} {s : State} (hJ : J a th s) : I (drive a n th s) := by
  obtain ⟨th', s', hJ', ⟨hnil, hend⟩ | hend⟩ := drive_induct a (J a) (h.spend a)
    (fun op rest th s => h.perform op rest a th s) n th s hJ
  · rw [hend]; exact h.finish a th' s' hnil hJ'
  · rw [hend]; exact h.park a th' s' hJ'

theorem exec {i : Instr} {s t : State} (hidle : (s.port s.issuer).thread = none) (hs : I s) (ht : exec i s = .next t) : I t := by
  rcases exec_cases i s t ht with ⟨st, -, rfl⟩ | ⟨hadmits, rfl⟩
  · exact h.answer s _ _ hidle hs
  · exact h.drive (h.issue s i hidle hadmits hs)

theorem serve {slice : Slice} {s t : State} (hturn : slice.agent = s.issuer) (hs : I s) (ht : serve slice s = .next t) : I t := by
  unfold Machine.serve at ht
  rw [hturn] at ht
  split at ht
  next th hth =>
    cases ht
    exact h.drive (h.resume s _ th hth hs)
  next hidle =>
    split at ht
    next => cases ht; exact hs
    next c cs _ =>
      have hqueue : I (s.setInbox s.issuer cs) := h.inbox s _ cs hs
      split at ht
      next => cases ht; exact h.answer _ _ _ hidle hqueue
      next i _ => exact h.exec (s := s.setInbox s.issuer cs) hidle hqueue ht

theorem step {s t : State} (hs : I s) (ht : step s = .next t) : I t := by
  unfold Machine.step at ht
  split at ht
  next => cases ht; exact hs
  next rest _ =>
    split at ht
    next => cases ht
    next => cases ht; exact h.reset s rest hs
  next slice rest _ =>
    split at ht
    next => exact h.serve rfl (h.serving s slice rest hs) ht
    next => cases ht

end StepRule

/-! ### A requirement on the commands in progress -/

/-- Every command in progress meets `T`. -/
def State.threadsMeet (T : Params → Agent → Thread → Prop) (s : State) : Prop :=
  ∀ a th, (s.port a).thread = some th → T s.params a th

/-- `T` depends on what is left of a command, not on whether it has overlapped a STRM_INIT; every admitted command starts with it and
every entry keeps it. -/
structure ThreadRule (T : Params → Agent → Thread → Prop) : Prop where
  mark : ∀ p a th, T p a th → T p a th.marked
  body : ∀ s i, s.admitsCommand i → T s.params s.issuer (bodyOf s i).1
  perform : ∀ op rest a th (s : State), th.ops = op :: rest → T s.params a th →
    T s.params a (op.perform a { th with ops := rest } s).1

/-- `K` of the state is kept by everything a step does, its commands meeting `T`. -/
structure KeptWith (T : Params → Agent → Thread → Prop) (K : State → Prop) : Prop where
  reset : ∀ s rest, K s → K (s.resetBlock rest)
  serving : ∀ s slice rest, K s → K (s.serving slice rest)
  inbox : ∀ s a cs, K s → K (s.setInbox a cs)
  port : ∀ s a p, K s → K (s.setPort a p)
  body : ∀ s i, K s → K (bodyOf s i).2
  spend : ∀ s, K s → K s.spend
  perform : ∀ op rest a th s, th.ops = op :: rest → T s.params a th → K s → K (op.perform a { th with ops := rest } s).2

section
variable {T : Params → Agent → Thread → Prop} {s : State}

theorem threadsMeet_of_ports {t : State} (hparams : t.params = s.params) (hports : t.ports = s.ports) (h : s.threadsMeet T) :
    t.threadsMeet T := by
  intro a th hth
  rw [State.port_congr hports] at hth
  rw [hparams]; exact h a th hth

theorem threadsMeet_of_noPorts (h : s.ports = []) : s.threadsMeet T := by
  intro a th hth
  rw [State.port, h] at hth; cases hth

theorem threadsMeet_setPort {a : Agent} {p : Port} (h : s.threadsMeet T) (hp : ∀ th, p.thread = some th → T s.params a th) :
    (s.setPort a p).threadsMeet T := by
  intro b th hth
  by_cases hb : b = a
  · subst hb; rw [State.port_setPort_same] at hth; exact hp th hth
  · rw [State.port_setPort_other s p hb] at hth; exact h b th hth

theorem threadsMeet_setPort_idle {a : Agent} {p : Port} (h : s.threadsMeet T) (hp : p.thread = none) :
    (s.setPort a p).threadsMeet T :=
  threadsMeet_setPort h fun th hth => by rw [hp] at hth; cases hth

theorem threadsMeet_perform (hT : ThreadRule T) (op : Op) (a : Agent) (th : Thread) (h : s.threadsMeet T) :
    (op.perform a th s).2.threadsMeet T := by
  intro b th' hth
  rw [perform_params]
  rcases perform_port_thread op a th s b with hsame | hmark
  · exact h b th' (hsame ▸ hth)
  · rw [hmark] at hth
    obtain ⟨th0, hth0, rfl⟩ := Option.map_eq_some_iff.1 hth
    exact hT.mark _ b th0 (h b th0 hth0)

end

theorem stepRule_of_kept {T : Params → Agent → Thread → Prop} {K : State → Prop} (hT : ThreadRule T) (hK : KeptWith T K) :
    StepRule (fun s => s.threadsMeet T ∧ K s) fun a th s => s.threadsMeet T ∧ K s ∧ T s.params a th where
  reset s rest := fun ⟨_, hk⟩ => ⟨threadsMeet_of_noPorts rfl, hK.reset s rest hk⟩
  serving s slice rest := fun ⟨ht, hk⟩ => ⟨ht, hK.serving s slice rest hk⟩
  inbox s a cs := fun ⟨ht, hk⟩ => ⟨ht, hK.inbox s a cs hk⟩
  answer s a r _ := fun ⟨ht, hk⟩ => ⟨threadsMeet_setPort_idle ht rfl, hK.port s a _ hk⟩
  resume s a th hth := fun ⟨ht, hk⟩ => ⟨threadsMeet_setPort_idle ht rfl, hK.port s a _ hk, ht a th hth⟩
  issue s i _ hadmits := fun ⟨ht, hk⟩ => by
    obtain ⟨n, f, hbody⟩ := bodyOf_frame s i
    refine ⟨?_, hK.body s i hk, ?_⟩
    · rw [hbody]; exact ht
    · rw [bodyOf_params]; exact hT.body s i hadmits
  spend a th s := fun ⟨ht, hk, hth⟩ => ⟨ht, hK.spend s hk, hth⟩
  perform op rest a th s ho := fun ⟨ht, hk, hth⟩ => by
    refine ⟨threadsMeet_perform hT op a _ ht, hK.perform op rest a th s ho hth hk, ?_⟩
    rw [perform_params]; exact hT.perform op rest a th s ho hth
  finish a th s _ := fun ⟨ht, hk, _⟩ => ⟨threadsMeet_setPort_idle ht rfl, hK.port s a _ hk⟩
  park a th s := fun ⟨ht, hk, hth⟩ => ⟨threadsMeet_setPort ht (by rintro _ ⟨⟩; exact hth), hK.port s a _ hk⟩

end Sys2Proof.Machine
end

section
/-!
PROOFS of O55 and O56: every step keeps the tables canonical, the commands in progress legal and owned, and the stored values legal.
Each is one `StepRule`: legal entries unfold to legal entries, an admitted command starts with legal ones, and what a legal entry stores
is legal.
-/

namespace Sys2Proof.Machine

/-! ### The bits of the samples the producer writes -/

/-- The reserved bits of a sample, one by one (30_encoding.md R136). -/
theorem sampleReservedClear_iff (x : Sample) : sampleReservedClear x = true ↔
    ∀ i, 2 ≤ i ∧ i < 8 ∨ 9 ≤ i ∧ i < 16 ∨ 29 ≤ i ∧ i < 32 → x.getLsbD i = false := by
  have field : ∀ start len, x.extractLsb' start len = 0#len ↔ ∀ i, start ≤ i → i < start + len → x.getLsbD i = false := by
    intro start len
    constructor
    · intro h i h1 h2
      have hbit := congrArg (fun y => y.getLsbD (i - start)) h
      simpa [show i - start < len by omega, show start + (i - start) = i by omega] using hbit
    · intro h
      apply BitVec.eq_of_getLsbD_eq
      intro i hi
      simp [hi, h (start + i) (by omega) (by omega)]
  simp only [sampleReservedClear, Bool.and_eq_true, beq_iff_eq, field]
  constructor
  · rintro ⟨⟨h1, h2⟩, h3⟩ i (hi | hi | hi)
    · exact h1 i hi.1 hi.2
    · exact h2 i hi.1 hi.2
    · exact h3 i hi.1 hi.2
  · intro h
    exact ⟨⟨fun i h1 h2 => h i (.inl ⟨h1, h2⟩), fun i h1 h2 => h i (.inr (.inl ⟨h1, h2⟩))⟩,
      fun i h1 h2 => h i (.inr (.inr ⟨h1, h2⟩))⟩

/-- A sample made of fields whose flags byte has no reserved bit has none (30_encoding.md R130). -/
theorem sampleOf_reservedClear (payload : BitVec 16) (flags audio : BitVec 8) (key : Bool) (paddles : Paddles)
    (hflags : ∀ i, 5 ≤ i → flags.getLsbD i = false) : sampleReservedClear (sampleOf payload flags audio key paddles) = true := by
  rw [sampleReservedClear_iff]
  intro i hi
  simp only [sampleOf, BitVec.getLsbD_append, BitVec.getLsbD_zero]
  rcases hi with hi | hi | hi
  · rw [if_neg (by omega), if_pos (by omega)]
  · rw [if_neg (by omega), if_neg (by omega), if_neg (by omega), if_pos (by omega)]
  · rw [if_neg (by omega), if_neg (by omega), if_neg (by omega), if_neg (by omega), if_neg (by omega), if_pos (by omega)]
    exact hflags _ (by omega)

theorem marker_reservedClear (n : BitVec 16) : sampleReservedClear (marker n) = true :=
  sampleOf_reservedClear _ _ _ _ _ fun i hi => by
    by_cases h : i < 8
    · interval_cases i <;> rfl
    · exact BitVec.getLsbD_of_ge _ i (by omega)

theorem output_reservedClear (f : Iambic) (p : Paddles) : sampleReservedClear (f.output p) = true :=
  sampleOf_reservedClear _ _ _ _ _ fun _ _ => BitVec.getLsbD_zero

/-- Annotating changes the bits 24 to 26 alone (40_stream.md R205). -/
theorem getLsbD_annotate {x l : Sample} {i : Nat} (h : i < 24 ∨ 27 ≤ i ∧ i < 48) : (annotate x l).getLsbD i = x.getLsbD i := by
  simp only [annotate, BitVec.getLsbD_append, BitVec.getLsbD_extractLsb']
  rcases h with h | h
  · simp only [h, if_true, decide_true, Bool.true_and, Nat.zero_add]
  · simp only [show ¬ i < 24 by omega, show ¬ i - 24 < 1 by omega, show ¬ i - 24 - 1 < 1 by omega, show ¬ i - 24 - 1 - 1 < 1 by omega,
      show i - 24 - 1 - 1 - 1 < 21 by omega, show 27 + (i - 24 - 1 - 1 - 1) = i by omega, if_false, decide_true, Bool.true_and]

theorem annotate_reservedClear {x : Sample} (l : Sample) (h : sampleReservedClear x = true) :
    sampleReservedClear (annotate x l) = true := by
  rw [sampleReservedClear_iff] at h ⊢
  intro i hi
  rw [getLsbD_annotate (by omega)]
  exact h i hi

theorem annotate_silence (x l : Sample) : sampleSilence (annotate x l) = false := by
  simp only [sampleSilence, annotate, BitVec.getLsbD_append]
  rfl

/-! ### Legal entries -/

/-- Every entry left of the command is legal. -/
def legalThread (p : Params) (_ : Agent) (th : Thread) : Prop := ∀ op ∈ th.ops, op.legal p

theorem closed_legal (p : Params) : Closed (Op.legal p) := by
  apply closed_of
  case h9 => exact fun _ _ _ h => h
  case h10 => exact fun _ => ⟨(by decide : 1#8 ≤ 4#8), (by decide : 2#8 ≤ 4#8), fun _ => trivial, trivial, trivial, trivial⟩
  all_goals intros; assumption

/-- A legal entry writes a context that exists. -/
theorem ctxWritten_exists {p : Params} {op : Op} {k : CtxIdx} (h : op.legal p) (hk : op.ctxWritten = some k) : k.toNat < p.nc := by
  cases op with
  | slotCopy i r =>
    cases r with
    | plain => cases hk
    | hrt j | be j skipped => cases hk; exact h
  | hrtInit j _ | hrtResync j | beInit j _ _ | beSkip j | beJump j => cases hk; exact h
  | _ => cases hk

theorem writeSlotOps_legal {v : Sample} (p : Params) (hv : sampleReservedClear v = true) : ∀ o ∈ writeSlotOps v, o.legal p := by
  simp [writeSlotOps, Op.legal, hv]

theorem flushPendingOps_legal (p : Params) (n : BitVec 16) : ∀ o ∈ flushPendingOps n, o.legal p := by
  unfold flushPendingOps
  split
  · simp
  · simp only [List.forall_mem_append, List.forall_mem_singleton]
    exact ⟨writeSlotOps_legal p (marker_reservedClear n), trivial⟩

theorem pushBody_legal (s : State) {x : Sample} (p : Params) (hx : sampleReservedClear x = true) :
    ∀ o ∈ (s.pushBody x).2.1, o.legal p := by
  have hann := annotate_reservedClear s.last hx
  unfold State.pushBody
  split
  · simp
  · simp only [List.forall_mem_append, List.forall_mem_singleton]
    exact ⟨⟨flushPendingOps_legal p _, writeSlotOps_legal p hann⟩, hann, annotate_silence _ _⟩

theorem operandSample_reservedClear {a : Word64} (h : WellFormed.sampleWord a = true) :
    sampleReservedClear (operandSample a) = true := by
  rw [← sampleOperandOk_eq, sampleOperandOk, Bool.and_eq_true] at h
  exact h.2

theorem operandCode_le {a : Word64} (h : WellFormed.faultCode a = true) : operandCode a ≤ 4#8 := by
  rw [← codeOperandOk_eq, codeOperandOk, Bool.and_eq_true, decide_eq_true_eq] at h
  exact h.2

/-- An admitted command starts with legal entries: its operands are well formed, and its context exists. -/
theorem bodyOf_legal {s : State} {i : Instr} (h : s.admitsCommand i) : ∀ o ∈ (bodyOf s i).1.ops, o.legal s.params := by
  obtain ⟨hrole, -, -, hwf, -⟩ := h
  intro o ho
  have hopen := bodyOf_opening s i o ho
  cases i with
  | push a => exact pushBody_legal s _ (operandSample_reservedClear hwf) o ho
  | pushRaw a => exact writeSlotOps_legal _ (operandSample_reservedClear hwf) o ho
  | flush => exact flushPendingOps_legal _ _ o ho
  | strmInit => rcases hopen with rfl | rfl <;> trivial
  | fltSet a b =>
    simp only [WellFormed.faultCode, Instr.wellFormed, Bool.and_eq_true] at hwf
    have hcode := operandCode_le hwf.1
    revert o
    simp [bodyOf, Thread.start, faultSetNumberOps, Op.legal, hcode]
  | fltClear => revert o; simp [bodyOf, Thread.start, faultClearOps, Op.legal]
  | prodTick a b =>
    rw [prodTick_ops] at ho
    rcases List.mem_append.1 ho with ho | ho
    · exact pushBody_legal _ _ (output_reservedClear _ _) o ho
    · simp only [List.mem_cons, List.not_mem_nil, or_false] at ho
      rcases ho with rfl | rfl | rfl
      · exact Nat.succ_pos _
      · trivial
      · trivial
  | hrtInit k _ | hrtTick k | hrtResync k | beInit k _ _ | beTick k => cases hopen; exact hrole.2
  | beDropped _ | iamCfg _ | iamTick _ _ => cases hopen
  | read _ | wpos | lag _ | overrun _ | fltActive | fltCode | fltData | fltCount => cases hopen; trivial

theorem threadRule_legal : ThreadRule legalThread where
  mark _ _ _ h := h
  body _ _ h := bodyOf_legal h
  perform op rest a th s ho h := perform_closed _ (closed_legal s.params) op rest a th s ho h

/-! ### O55: the tables -/

theorem sparseWf_nil {α : Type} (d : α) (bound : Nat) : sparseWf d bound [] := ⟨List.Pairwise.nil, by simp⟩

theorem storageCanonical_setPort {s : State} (a : Agent) (p : Port) (h : s.storageCanonical) : (s.setPort a p).storageCanonical := by
  obtain ⟨hslots, hctxs, hports, hinboxes⟩ := h
  exact ⟨hslots, hctxs, setPort_wf s a p hports, hinboxes⟩

theorem storageCanonical_markOverlapped {s : State} (h : s.storageCanonical) : s.markOverlapped.storageCanonical := by
  obtain ⟨hslots, hctxs, hports, hinboxes⟩ := h
  exact ⟨hslots, hctxs, markOverlapped_wf s hports, hinboxes⟩

theorem storageCanonical_slotWriteEnd {s : State} (v : Sample) (h : s.storageCanonical) : (s.slotWriteEnd v).storageCanonical := by
  obtain ⟨hslots, hctxs, hports, hinboxes⟩ := h
  exact ⟨slotWriteEnd_wf s v hslots, hctxs, hports, hinboxes⟩

theorem storageCanonical_zeroStream {s : State} (h : s.storageCanonical) : s.zeroStream.storageCanonical := by
  obtain ⟨-, hctxs, hports, hinboxes⟩ := h
  exact ⟨zeroStream_wf s, hctxs, hports, hinboxes⟩

/-- A legal entry keeps the tables canonical: it writes an existing slot or an existing context. -/
theorem storageCanonical_perform {op : Op} (a : Agent) (th : Thread) {s : State} (hop : op.legal s.params) (h : s.storageCanonical) :
    (op.perform a th s).2.storageCanonical := by
  have hquiet : KeptByQuiet op a fun u => u.params = s.params ∧ u.storageCanonical :=
    { port := fun u p _ _ ⟨hp, hu⟩ => ⟨hp, storageCanonical_setPort a p hu⟩
      age := fun _ hu => hu
      ctx := fun u k c hk ⟨hp, hslots, hctxs, hrest⟩ =>
        ⟨hp, hslots, setCtx_wf u k c hctxs (by rw [hp]; exact ctxWritten_exists hop hk), hrest⟩
      latch := fun _ _ hu => hu
      draw := fun _ _ hu => hu }
  have hview : ∀ u : State, u.storageCanonical → ∀ v, (u.setView a v).storageCanonical :=
    fun u hu v => storageCanonical_setPort a _ hu
  cases op with
  | strmZero => exact storageCanonical_markOverlapped (storageCanonical_zeroStream h)
  | strmPublish => exact storageCanonical_markOverlapped (hview { s with w := _ } h _)
  | publish => exact hview { s with w := _ } h _
  | slotWriteEnd v => exact storageCanonical_slotWriteEnd v h
  | slotWriteBegin | clearIdle | setLast _ => exact h
  | storeCode c => exact hview { s with code := _ } h _
  | storeData d => exact hview { s with data := _ } h _
  | countFault => exact hview { s with count := _ } h _
  | storeActive v => exact hview { s with active := _ } h _
  | _ => exact (perform_quiet hquiet rfl rfl th ⟨rfl, h⟩).2

theorem storageCanonical_kept : KeptWith legalThread State.storageCanonical where
  reset _ _ := fun ⟨_, _, _, hinboxes⟩ => ⟨sparseWf_nil _ _, sparseWf_nil _ _, sparseWf_nil _ _, hinboxes⟩
  serving _ _ _ h := h
  inbox s a cs := fun ⟨hslots, hctxs, hports, hinboxes⟩ => ⟨hslots, hctxs, hports, setInbox_wf s a cs hinboxes⟩
  port _ a p h := storageCanonical_setPort a p h
  body s i h := by
    obtain ⟨n, f, hbody⟩ := bodyOf_frame s i
    rw [hbody]; exact h
  spend _ h := h
  perform op rest a th s ho hth h := storageCanonical_perform a _ (hth op (by simp [ho])) h

/-! ### O55: the commands in progress -/

/-- The command is what is left of one that its agent may issue. -/
def ownedThread (p : Params) (a : Agent) (th : Thread) : Prop := ∃ i, th.isLeftOf i ∧ (roleOf i).admits p.nc a

theorem threadRule_owned : ThreadRule ownedThread where
  mark _ _ _ h := h
  body s i h := ⟨i, body_left s i, h.1⟩
  perform _ _ _ _ _ ho := fun ⟨i, hleft, hrole⟩ => ⟨i, isLeftOf_step ho hleft, hrole⟩

/-- Ownership rests on nothing else of the state. -/
theorem true_kept (T : Params → Agent → Thread → Prop) : KeptWith T fun _ => True := by
  constructor <;> intros <;> trivial

/-- Settles O55: legal entries keep the tables canonical (`storageCanonical_kept`), and what an entry leaves of a command may be left of
it (`threadRule_owned`). -/
theorem stepKeepsTheStorageCanonical : Obligations.StepKeepsTheStorageCanonical := by
  intro s t hstep
  refine ⟨fun hlegal hcanonical => ?_, fun howned => ?_⟩
  · exact (stepRule_of_kept threadRule_legal storageCanonical_kept).step ⟨hlegal, hcanonical⟩ hstep
  · exact ((stepRule_of_kept threadRule_owned (true_kept _)).step ⟨howned, trivial⟩ hstep).1

/-! ### O56: the stored values -/

/-- The values O56 speaks of. -/
def State.valuesLegal (s : State) : Prop := s.samplesLegal ∧ s.codesLegal

theorem sampleReservedClear_zero : sampleReservedClear 0 = true := by decide

theorem samplesLegal_slotWriteEnd {s : State} {v : Sample} (hv : sampleReservedClear v = true) (h : s.samplesLegal) :
    (s.slotWriteEnd v).samplesLegal := by
  obtain ⟨hslots, hlast⟩ := h
  refine ⟨fun n => ?_, hlast⟩
  by_cases hn : n = s.slotOf s.w.cur
  · subst hn; rw [State.slotWriteEnd, State.slot_setSlot_same]; exact hv
  · rw [State.slotWriteEnd, State.slot_setSlot_other s v hn]; exact hslots n

/-- With no slot listed and LAST zero, the samples are legal. -/
theorem samplesLegal_zero {s : State} (hslots : s.slots = []) (hlast : s.last = 0) : s.samplesLegal := by
  refine ⟨fun n => ?_, ?_, ?_⟩
  · rw [State.slot, hslots]; exact sampleReservedClear_zero
  · rw [hlast]; exact sampleReservedClear_zero
  · rw [hlast]; decide

theorem codesLegal_rlxStoreCode {s : State} {c : BitVec 8} (a : Agent) (hc : c ≤ 4#8) (h : s.codesLegal) :
    (s.rlxStoreCode a c).codesLegal := by
  obtain ⟨hcur, hpast⟩ := h
  exact ⟨hc, List.forall_mem_cons.2 ⟨hcur, hpast⟩⟩

/-- A legal entry stores legal values. -/
theorem valuesLegal_perform {op : Op} (a : Agent) (th : Thread) {s : State} (hop : op.legal s.params) (h : s.valuesLegal) :
    (op.perform a th s).2.valuesLegal := by
  have hquiet : KeptByQuiet op a State.valuesLegal :=
    { port := fun _ _ _ _ hu => hu
      age := fun _ hu => hu
      ctx := fun _ _ _ _ hu => hu
      latch := fun _ _ hu => hu
      draw := fun _ _ hu => hu }
  have ⟨hsamples, hcodes⟩ := h
  have ⟨hslots, _⟩ := hsamples
  cases op with
  | strmZero => exact ⟨samplesLegal_zero rfl rfl, hcodes⟩
  | slotWriteEnd v => exact ⟨samplesLegal_slotWriteEnd hop hsamples, hcodes⟩
  | setLast x => exact ⟨⟨hslots, hop⟩, hcodes⟩
  | strmPublish | publish | slotWriteBegin | clearIdle | storeData _ | countFault | storeActive _ => exact h
  | storeCode c => exact ⟨hsamples, codesLegal_rlxStoreCode a hop hcodes⟩
  | _ => exact perform_quiet hquiet rfl rfl th h

theorem valuesLegal_reset {s : State} (hslots : s.slots = []) (hlast : s.last = 0) (hcode : s.code = Cell.zero 8) : s.valuesLegal := by
  refine ⟨samplesLegal_zero hslots hlast, ?_⟩
  rw [State.codesLegal, hcode]
  exact ⟨by decide, by simp [Cell.zero]⟩

theorem valuesLegal_kept : KeptWith legalThread State.valuesLegal where
  reset _ _ _ := valuesLegal_reset rfl rfl rfl
  serving _ _ _ h := h
  inbox _ _ _ h := h
  port _ _ _ h := h
  body s i h := by
    obtain ⟨n, f, hbody⟩ := bodyOf_frame s i
    rw [hbody]; exact h
  spend _ h := h
  perform op rest a th s ho hth h := valuesLegal_perform a _ (hth op (by simp [ho])) h

/-- Settles O56: a legal entry stores legal values (`valuesLegal_perform`), and the commands in progress stay legal. -/
theorem stepKeepsTheStoredValuesLegal : Obligations.StepKeepsTheStoredValuesLegal := by
  intro s t hlegal hsamples hcodes hstep
  exact ((stepRule_of_kept threadRule_legal valuesLegal_kept).step ⟨hlegal, hsamples, hcodes⟩ hstep).2

end Sys2Proof.Machine
end

section
/-!
PROOF of O58: every step keeps the writer in step (10_state.md R37). While an agent runs, what is left at its port is what it has
still to do (`Function.update`); an entry that writes the stream is the producer's and moves its phase, every other entry leaves
phase, W and PW alone.
-/

namespace Sys2Proof.Machine

/-! ### Entries that leave the stream alone -/

theorem after_quiet {op : Op} (h : op.writesStream = false) (ph : WritePhase) : ph.after op = some ph := by
  cases op with
  | strmZero | strmPublish | slotWriteBegin | slotWriteEnd _ | publish | clearIdle | setLast _ => cases h
  | _ => rfl

/-- What leaves the stream alone unfolds to what leaves it alone. -/
theorem closed_quiet : Closed fun op => op.writesStream = false :=
  closed_of _ (fun _ _ _ => rfl) (fun _ _ => rfl) (fun _ _ => rfl) (fun _ _ _ => rfl) (fun _ _ _ => rfl) (fun _ _ _ => rfl)
    (fun _ _ => rfl) (fun _ _ => rfl) (fun _ _ _ _ => rfl) fun _ => ⟨rfl, rfl, fun _ => rfl, rfl, rfl, rfl⟩

/-- A command that is not the producer's alone starts with entries that leave the stream alone (10_state.md R36). -/
theorem opening_quiet {i : Instr} {o : Op} (hrole : roleOf i ≠ .producerOnly) (h : opening i o) : o.writesStream = false := by
  have hfault : ∀ o : Op, o.writesFault = true → o.writesStream = false := by
    intro o ho; cases o <;> first | rfl | cases ho
  cases i with
  | strmInit | push _ | pushRaw _ | flush | iamCfg _ | iamTick _ _ | prodTick _ _ => exact absurd rfl hrole
  | fltSet _ _ => exact hfault o h.1
  | fltClear => exact hfault o h
  | beDropped _ => cases h
  | _ => cases h; rfl

/-! ### The phases of what is left of a command -/

theorem continuesFrom_cons (ph : WritePhase) (op : Op) (rest : List Op) :
    continuesFrom ph (op :: rest) ↔ ∃ next, ph.after op = some next ∧ continuesFrom next rest := by
  simp only [continuesFrom]
  cases ph.after op <;> simp

/-- Entries that leave the stream alone may stand before any others. -/
theorem continuesFrom_quiet_append {new : List Op} (h : ∀ o ∈ new, o.writesStream = false) (ph : WritePhase) (rest : List Op) :
    continuesFrom ph (new ++ rest) ↔ continuesFrom ph rest := by
  induction new with
  | nil => rfl
  | cons op new ih =>
    obtain ⟨hop, hnew⟩ := List.forall_mem_cons.1 h
    rw [List.cons_append, continuesFrom_cons, after_quiet hop]
    simpa using ih hnew

theorem continuesFrom_quiet {ops : List Op} (h : ∀ o ∈ ops, o.writesStream = false) : continuesFrom .between ops := by
  rw [← List.append_nil ops, continuesFrom_quiet_append h]; rfl

/-- What ends between two slot writes may be followed by what starts there. -/
theorem continuesFrom_append {ph : WritePhase} {front back : List Op} (hfront : continuesFrom ph front)
    (hback : continuesFrom .between back) : continuesFrom ph (front ++ back) := by
  induction front generalizing ph with
  | nil => cases hfront; exact hback
  | cons op front ih =>
    obtain ⟨next, hafter, hrest⟩ := (continuesFrom_cons ph op front).1 hfront
    exact (continuesFrom_cons ph op _).2 ⟨next, hafter, ih hrest⟩

theorem continuesFrom_writeSlot (v : Sample) : continuesFrom .between (writeSlotOps v) := by
  simp [writeSlotOps, continuesFrom, WritePhase.after]

theorem continuesFrom_flushPending (n : BitVec 16) : continuesFrom .between (flushPendingOps n) := by
  unfold flushPendingOps
  split
  · rfl
  · exact continuesFrom_append (continuesFrom_writeSlot _) rfl

theorem continuesFrom_pushBody (s : State) (x : Sample) : continuesFrom .between (s.pushBody x).2.1 := by
  unfold State.pushBody
  split
  · rfl
  · exact continuesFrom_append (continuesFrom_append (continuesFrom_flushPending _) (continuesFrom_writeSlot _)) rfl

/-- Every command starts, and ends, between two slot writes. -/
theorem continuesFrom_bodyOf (s : State) (i : Instr) : continuesFrom .between (bodyOf s i).1.ops := by
  by_cases hrole : roleOf i = .producerOnly
  · cases i with
    | strmInit => simp [bodyOf, Thread.start, continuesFrom, WritePhase.after]
    | push a => exact continuesFrom_pushBody s _
    | pushRaw a => exact continuesFrom_writeSlot _
    | flush => exact continuesFrom_flushPending _
    | iamCfg _ | iamTick _ _ => rfl
    | prodTick a b => rw [prodTick_ops]; exact continuesFrom_append (continuesFrom_pushBody _ _) rfl
    | _ => cases hrole
  · exact continuesFrom_quiet fun o ho => opening_quiet hrole (bodyOf_opening s i o ho)

/-! ### What the writer has seen -/

theorem seesW_setPort {s : State} {a b : Agent} {p : Port} (hp : (s.view a).w ≤ p.view.w) (h : s.seesW b) :
    (s.setPort a p).seesW b := by
  by_cases hb : b = a
  · subst hb
    rw [State.seesW, State.view, State.port_setPort_same]
    exact le_trans h hp
  · rw [State.seesW, State.view, State.port_setPort_other s p hb]
    exact h

/-- The agent that stores W has seen its latest value. -/
theorem seesW_relStoreW (s : State) (a : Agent) (x : Word32) : (s.relStoreW a x).seesW a := by
  rw [State.seesW, State.relStoreW, State.view_setView]
  exact le_max_right _ _

theorem seesW_markOverlapped {s : State} {a : Agent} (h : s.seesW a) : s.markOverlapped.seesW a := by
  rw [State.seesW, State.view, port_markOverlapped]
  exact h

/-- An entry that does not store W lets every agent have seen what it had. -/
theorem seesW_perform {op : Op} (a b : Agent) (th : Thread) {s : State} (hop : op.writesStream = false) (h : s.seesW b) :
    (op.perform a th s).2.seesW b := by
  have hquiet : KeptByQuiet op a fun u => u.seesW b :=
    { port := fun _ _ _ hv hu => seesW_setPort hv hu
      age := fun _ hu => hu
      ctx := fun _ _ _ _ hu => hu
      latch := fun _ _ hu => hu
      draw := fun _ _ hu => hu }
  cases op with
  | strmZero | strmPublish | slotWriteBegin | slotWriteEnd _ | publish | clearIdle | setLast _ => cases hop
  | storeCode c => exact seesW_setPort (s := { s with code := _ }) (le_max_left _ _) h
  | storeData d => exact seesW_setPort (s := { s with data := _ }) (le_max_left _ _) h
  | countFault => exact seesW_setPort (s := { s with count := _ }) (le_max_left _ _) h
  | storeActive v => exact seesW_setPort (s := { s with active := _ }) (le_max_left _ _) h
  | _ => exact perform_quiet hquiet rfl rfl th h

/-! ### The writer in step -/

/-- PW in a phase, for a W (10_state.md R37). -/
def WritePhase.pwOf (ph : WritePhase) (w : Word32) : Word32 :=
  match ph with
  | .between => w
  | .begun => w + 1#32
  | .written => w + 1#32
  | .zeroed => 0#32

/-- The writer is in step when `left b` is what agent `b` has still to do. -/
def State.writerWith (s : State) (left : Agent → List Op) : Prop :=
  (∃ ph, continuesFrom ph (left .producer) ∧ s.pw = ph.pwOf s.w.cur) ∧ s.seesW .producer ∧
    ∀ b, b ≠ .producer → ∀ op ∈ left b, op.writesStream = false

theorem writerInStep_iff (s : State) : s.writerInStep ↔ s.writerWith s.opsLeft := by
  constructor
  · rintro ⟨⟨ph, hops, hpw⟩, hrest⟩
    exact ⟨⟨ph, hops, by cases ph <;> exact hpw⟩, hrest⟩
  · rintro ⟨⟨ph, hops, hpw⟩, hrest⟩
    exact ⟨⟨ph, hops, by cases ph <;> exact hpw⟩, hrest⟩

theorem opsLeft_setPort (s : State) (a : Agent) (p : Port) :
    (s.setPort a p).opsLeft = Function.update s.opsLeft a ((p.thread.map Thread.ops).getD []) := by
  funext b
  by_cases hb : b = a
  · subst hb
    rw [Function.update_self, State.opsLeft, State.port_setPort_same]
    cases p.thread <;> rfl
  · rw [Function.update_of_ne hb, opsLeft_congr (State.port_setPort_other s p hb)]

/-- A port written with the same view leaves the writer in step. -/
theorem writerWith_setPort {s : State} {left : Agent → List Op} {a : Agent} {p : Port} (hp : p.view = s.view a)
    (h : s.writerWith left) : (s.setPort a p).writerWith left := by
  obtain ⟨hphase, hsees, hothers⟩ := h
  exact ⟨hphase, seesW_setPort (by rw [hp]) hsees, hothers⟩

/-- Agent `a` has `ops'` still to do in place of `ops`: for the producer they go on from the same phases, for another agent they leave the
stream alone again. -/
theorem writerWith_replace {s : State} {left : Agent → List Op} {a : Agent} {ops ops' : List Op}
    (hproducer : a = .producer → ∀ ph, continuesFrom ph ops → continuesFrom ph ops')
    (hother : a ≠ .producer → (∀ o ∈ ops, o.writesStream = false) → ∀ o ∈ ops', o.writesStream = false)
    (h : s.writerWith (Function.update left a ops)) : s.writerWith (Function.update left a ops') := by
  obtain ⟨⟨ph, hops, hpw⟩, hsees, hothers⟩ := h
  refine ⟨⟨ph, ?_, hpw⟩, hsees, fun b hb => ?_⟩
  · by_cases ha : a = .producer
    · subst ha
      rw [Function.update_self] at hops ⊢
      exact hproducer rfl ph hops
    · rw [Function.update_of_ne (Ne.symm ha)] at hops ⊢
      exact hops
  · have hb' := hothers b hb
    by_cases hba : b = a
    · subst hba
      rw [Function.update_self] at hb' ⊢
      exact hother hb hb'
    · rw [Function.update_of_ne hba] at hb' ⊢
      exact hb'

/-- An entry of the producer that writes the stream moves the phase as `WritePhase.after` says, and PW and W with it. -/
theorem writerWith_writing {op : Op} {rest : List Op} {left : Agent → List Op} (th : Thread) {s : State} (hop : op.writesStream = true)
    (h : s.writerWith (Function.update left .producer (op :: rest))) :
    (op.perform .producer th s).2.writerWith (Function.update left .producer rest) := by
  obtain ⟨⟨ph, hops, hpw⟩, hsees, hothers⟩ := h
  rw [Function.update_self] at hops
  obtain ⟨next, hafter, hrest⟩ := (continuesFrom_cons ph op rest).1 hops
  have hothers' : ∀ b, b ≠ .producer → ∀ o ∈ Function.update left .producer rest b, o.writesStream = false := by
    intro b hb
    have hb' := hothers b hb
    rw [Function.update_of_ne hb] at hb' ⊢
    exact hb'
  have moved : ∀ u : State, u.pw = next.pwOf u.w.cur → u.seesW .producer → u.writerWith (Function.update left .producer rest) :=
    fun u hu hu' => ⟨⟨next, by rw [Function.update_self]; exact hrest, hu⟩, hu', hothers'⟩
  cases op with
  | strmZero =>
    obtain ⟨rfl, ⟨⟩⟩ := Option.ite_none_right_eq_some.1 hafter
    exact moved _ rfl (seesW_markOverlapped (s := s.zeroStream) hsees)
  | strmPublish =>
    obtain ⟨rfl, ⟨⟩⟩ := Option.ite_none_right_eq_some.1 hafter
    exact moved _ hpw (seesW_markOverlapped (seesW_relStoreW s _ _))
  | slotWriteBegin =>
    obtain ⟨rfl, ⟨⟩⟩ := Option.ite_none_right_eq_some.1 hafter
    exact moved _ rfl hsees
  | slotWriteEnd v =>
    obtain ⟨rfl, ⟨⟩⟩ := Option.ite_none_right_eq_some.1 hafter
    exact moved _ hpw hsees
  | publish =>
    obtain ⟨rfl, ⟨⟩⟩ := Option.ite_none_right_eq_some.1 hafter
    exact moved _ hpw (seesW_relStoreW s _ _)
  | clearIdle | setLast _ => cases hafter; exact moved _ hpw hsees
  | _ => cases hop

/-- Every entry of a command in progress keeps the writer in step. -/
theorem writerWith_perform {op : Op} {rest : List Op} {left : Agent → List Op} {a : Agent} {th : Thread} {s : State}
    (h : s.writerWith (Function.update left a (op :: rest))) :
    (op.perform a { th with ops := rest } s).2.writerWith
      (Function.update left a (op.perform a { th with ops := rest } s).1.ops) := by
  obtain ⟨new, hunfolds, hops⟩ := perform_ops op a { th with ops := rest } s
  rw [hops]
  cases hop : op.writesStream with
  | true =>
    have ha : a = .producer := by
      by_contra ha
      obtain ⟨-, -, hothers⟩ := h
      have hquiet := hothers a ha op (by rw [Function.update_self]; exact List.mem_cons_self)
      rw [hop] at hquiet; cases hquiet
    subst ha
    have hnew : new = [] := by
      cases op with
      | strmZero | strmPublish | slotWriteBegin | slotWriteEnd _ | publish | clearIdle | setLast _ => exact hunfolds
      | _ => cases hop
    rw [hnew]
    exact writerWith_writing _ hop h
  | false =>
    have hnew : ∀ o ∈ new, o.writesStream = false := closed_quiet op new hop hunfolds
    obtain ⟨⟨ph, hphase, hpw⟩, hsees, hothers⟩ := h
    obtain ⟨hw, -, -, -, hpw'⟩ := perform_stream op a { th with ops := rest } s hop
    refine writerWith_replace (ops := op :: rest) (fun _ ph hc => ?_) (fun _ hq o ho => ?_)
      ⟨⟨ph, hphase, by rw [hpw', hw]; exact hpw⟩, seesW_perform a _ _ hop hsees, hothers⟩
    · obtain ⟨next, hafter, hrest⟩ := (continuesFrom_cons ph op rest).1 hc
      rw [after_quiet hop] at hafter
      cases hafter
      exact (continuesFrom_quiet_append hnew ph rest).2 hrest
    · rcases List.mem_append.1 ho with ho | ho
      · exact hnew o ho
      · exact hq o (List.mem_cons_of_mem _ ho)

/-- The writer of a block with no port listed, PW and W both 0, is in step. -/
theorem writerInStep_reset {s : State} (hports : s.ports = []) (hw : s.w = Cell.zero 32) (hpw : s.pw = 0) : s.writerInStep := by
  have hidle : ∀ a, s.port a = Port.idle := fun a => by rw [State.port, hports]; rfl
  have hleft : ∀ a, s.opsLeft a = [] := fun a => opsLeft_of_idle (by rw [hidle]; rfl)
  refine (writerInStep_iff s).2 ⟨⟨.between, ?_, ?_⟩, ?_, fun b _ op hop => ?_⟩
  · rw [hleft]; rfl
  · rw [hpw, hw]; rfl
  · rw [State.seesW, hw]; exact Nat.zero_le _
  · rw [hleft] at hop; cases hop

/-- A command that is admitted: the producer's goes on between two slot writes, another agent's leaves the stream alone. -/
theorem writerWith_bodyOf {s : State} {i : Instr} (hidle : (s.port s.issuer).thread = none) (hadmits : s.admitsCommand i)
    (h : s.writerWith s.opsLeft) :
    (bodyOf s i).2.writerWith (Function.update (bodyOf s i).2.opsLeft s.issuer (bodyOf s i).1.ops) := by
  obtain ⟨n, f, hbody⟩ := bodyOf_frame s i
  have hstart : s.writerWith (Function.update s.opsLeft s.issuer []) := by
    rw [← opsLeft_of_idle hidle, Function.update_eq_self]; exact h
  rw [hbody]
  refine writerWith_replace (s := s) (ops := []) (fun _ ph hph => ?_) (fun hissuer _ o ho => ?_) hstart
  · cases hph; exact continuesFrom_bodyOf s i
  · refine opening_quiet (fun hrole => hissuer ?_) (bodyOf_opening s i o ho)
    obtain ⟨hissuerRole, -⟩ := hadmits
    rw [hrole] at hissuerRole
    exact hissuerRole

theorem stepRule_writer : StepRule (fun s => s.writerWith s.opsLeft)
    fun a th s => s.writerWith (Function.update s.opsLeft a th.ops) where
  reset s rest _ := (writerInStep_iff _).1 (writerInStep_reset rfl rfl rfl)
  serving _ _ _ h := h
  inbox _ _ _ h := h
  answer s a r hidle h := by
    have hleft : (s.respond a r).opsLeft = s.opsLeft := by
      rw [State.respond, opsLeft_setPort]
      exact Function.update_eq_self_iff.2 (opsLeft_of_idle hidle).symm
    rw [hleft]
    exact writerWith_setPort rfl h
  resume s a th hth h := by
    rw [opsLeft_setPort, Function.update_idem, ← opsLeft_of_thread hth, Function.update_eq_self]
    exact writerWith_setPort rfl h
  issue _ _ hidle hadmits h := writerWith_bodyOf hidle hadmits h
  spend _ _ _ h := h
  perform op rest a th s ho h := by
    rw [funext (perform_opsLeft op a { th with ops := rest } s)]
    rw [ho] at h
    exact writerWith_perform h
  finish a th s hnil h := by
    rw [State.finish, State.respond, opsLeft_setPort]
    rw [hnil] at h
    exact writerWith_setPort rfl h
  park a th s h := by
    rw [State.park, opsLeft_setPort]
    exact writerWith_setPort rfl h

/-- Settles O58: the writer in step, said of what each agent has still to do, is kept by everything a step does. -/
theorem stepKeepsTheWriterInStep : Obligations.StepKeepsTheWriterInStep := by
  intro s t h hstep
  rw [writerInStep_iff] at h ⊢
  exact stepRule_writer.step h hstep

end Sys2Proof.Machine
end

section
/-!
PROOFS of O10 and O60 (the state after reset), and of O52, O53 and O54 (which commands write what). The last three are one rule,
`command_keeps`: what a command's entries keep, the command keeps, issued or gone on with.
-/

namespace Sys2Proof.Machine

/-! ### Reset -/

theorem step_reset {s : State} {rest : List Turn} (hturns : s.turns = .reset :: rest) (hidle : s.anyInProgress = false) :
    step s = .next (s.resetBlock rest) := by
  simp only [step, hturns, hidle, Bool.false_eq_true, if_false]

/-- With nothing queued, nothing scheduled and no draw, reset leaves `State.reset`. -/
theorem resetBlock_eq {s : State} (hinboxes : s.inboxes = []) (hdraws : s.draws = 0) (hparams : s.params = Config.resetParams) :
    s.resetBlock [] = State.reset := by
  rw [State.resetBlock, hinboxes, hdraws, hparams]; rfl

/-- Settles O10: reset gives every element its reset value, whatever the state. -/
theorem resetLeavesTheSpecifiedState : Obligations.ResetLeavesTheSpecifiedState := by
  intro s rest hturns hidle
  refine ⟨s.resetBlock rest, step_reset hturns hidle, rfl, rfl, fun _ => rfl, rfl, rfl, rfl, rfl, rfl, rfl, rfl, fun _ => rfl, rfl, rfl,
    rfl, rfl, rfl, fun hinboxes hrest hdraws hparams => ?_⟩
  subst hrest
  have hreset : s.resetBlock [] = State.reset := resetBlock_eq hinboxes hdraws hparams
  rw [hreset]

/-- Settles O60: no command is in progress after reset, and every element has its reset value. -/
theorem resetHasEveryInvariant : Obligations.ResetHasEveryInvariant := by
  intro p
  obtain ⟨hsamples, hcodes⟩ : (State.resetWith p).valuesLegal := valuesLegal_reset rfl rfl rfl
  have hlegal : (State.resetWith p).threadsMeet legalThread := threadsMeet_of_noPorts rfl
  have howned : (State.resetWith p).threadsMeet ownedThread := threadsMeet_of_noPorts rfl
  have hview : View.zero.within (State.resetWith p) := ⟨le_rfl, le_rfl, le_rfl, le_rfl, le_rfl⟩
  have hloaded : Loaded.zero.within (State.resetWith p) := ⟨le_rfl, le_rfl, le_rfl⟩
  refine ⟨hlegal, howned, ⟨sparseWf_nil _ _, sparseWf_nil _ _, sparseWf_nil _ _, sparseWf_nil _ _⟩, hsamples, hcodes, ?_,
    writerInStep_reset rfl rfl rfl, ?_⟩
  · exact ⟨rfl, fun _ => ⟨rfl, rfl, rfl⟩⟩
  · have hpast : ∀ n, ∀ m ∈ (Cell.zero n).past, m.2.within (State.resetWith p) := fun _ _ hm => by cases hm
    exact ⟨fun _ => ⟨hview, hloaded⟩, ⟨hview, hpast 32⟩, hview, hpast 1⟩

/-! ### What a command keeps, issued or gone on with -/

/-- `I` does not depend on the ports, the queues and the schedule. -/
structure KeptOutside (I : State → Prop) : Prop where
  port : ∀ s a p, I s → I (s.setPort a p)
  inbox : ∀ s a cs, I s → I (s.setInbox a cs)
  serving : ∀ s slice rest, I s → I (s.serving slice rest)
  spend : ∀ s, I s → I s.spend

/-- Command `i` of agent `g` takes `s` to `t`: it is issued, or the next step runs it. -/
def Runs (g : Agent) (i : Instr) (s t : State) : Prop :=
  s.issuer = g ∧ exec i s = .next t ∨ s.nextRuns g i ∧ step s = .next t

section
variable {g : Agent} {i : Instr} {P : Op → Prop} {I : State → Prop} {s t : State}

/-- What an issued command's preliminary work and its entries keep, the command keeps. -/
theorem exec_keeps (hI : KeptOutside I) (hP : Closed P) (hopening : s.admitsCommand i → ∀ o, opening i o → P o)
    (hbody : s.admitsCommand i → I (bodyOf s i).2) (hperform : ∀ op th u, P op → I u → I (op.perform s.issuer th u).2)
    (hs : I s) (ht : exec i s = .next t) : I t := by
  rcases exec_track i s t P I ht hP hopening (fun hadmits _ _ _ => hbody hadmits) hI.spend hperform with
    ⟨st, -, rfl⟩ | ⟨th, u, hu, -, rfl | rfl⟩
  · exact hI.port _ _ _ hs
  · exact hI.port _ _ _ hu
  · exact hI.port _ _ _ hu

/-- What the entries and the preliminary work of a command keep that agent `g` may issue, each run of it keeps. -/
theorem command_keeps (hI : KeptOutside I) (hP : Closed P) (hopening : (roleOf i).admits s.params.nc g → ∀ o, opening i o → P o)
    (hbody : ∀ u, (roleOf i).admits s.params.nc g → I u → I (bodyOf u i).2)
    (hperform : ∀ op th u, P op → I u → I (op.perform g th u).2) (hs : I s) (ht : Runs g i s t) : I t := by
  rcases ht with ⟨rfl, hexec⟩ | ⟨hruns, hstep⟩
  · exact exec_keeps hI hP (fun hadmits => hopening hadmits.1) (fun hadmits => hbody s hadmits.1 hs) hperform hs hexec
  · rcases step_cases s t g i hruns hstep with ⟨slice, rest, cs, rfl, -, hexec⟩ | ⟨slice, rest, th, -, -, hleft, hrole, rfl⟩
    · have hstart : I ((s.serving slice rest).setInbox slice.agent cs) := hI.inbox _ _ _ (hI.serving _ _ _ hs)
      exact exec_keeps hI hP (fun hadmits => hopening hadmits.1) (fun hadmits => hbody _ hadmits.1 hstart) hperform hstart hexec
    · exact resume_track i g th _ P I hleft hP (hopening hrole) (fun u p => hI.port u g p) (hI.serving _ _ _ hs) hI.spend hperform

end

/-! ### O52: the latch and the FSM -/

/-- An entry that leaves the latch alone. -/
def Op.keepsLatch (op : Op) : Prop := op ≠ .latch ∧ ∀ x, op ≠ .faultCheck x

theorem closed_keepsLatch : Closed Op.keepsLatch := by
  unfold Op.keepsLatch
  apply closed_of <;> simp

/-- Every command but PROD_TICK starts with entries that leave the latch alone. -/
theorem opening_keepsLatch {i : Instr} {o : Op} (hi : ∀ a b, i ≠ .prodTick a b) (h : opening i o) : o.keepsLatch := by
  have hwrites : ∀ o : Op, o.writesSample = true ∨ o.writesFault = true → o.keepsLatch := by
    intro o ho
    refine ⟨?_, fun x => ?_⟩ <;> rintro rfl <;> simp [Op.writesSample, Op.writesFault] at ho
  cases i with
  | prodTick a b => exact absurd rfl (hi a b)
  | push _ | pushRaw _ | flush => exact hwrites o (.inl h)
  | fltSet _ _ => exact hwrites o (.inr h.1)
  | fltClear => exact hwrites o (.inr h)
  | strmInit => rcases h with rfl | rfl <;> exact ⟨by simp, by simp⟩
  | beDropped _ | iamCfg _ | iamTick _ _ => cases h
  | _ => cases h; exact ⟨by simp, by simp⟩

/-- The preliminary work before a command's first micro-step writes the FSM only in IAM_CFG, IAM_TICK and PROD_TICK. -/
theorem bodyOf_fsm (s : State) {i : Instr} (hcfg : ∀ a, i ≠ .iamCfg a) (htick : ∀ a b, i ≠ .iamTick a b)
    (hprod : ∀ a b, i ≠ .prodTick a b) : (bodyOf s i).2.fsm = s.fsm := by
  cases i with
  | iamCfg a => exact absurd rfl (hcfg a)
  | iamTick a b => exact absurd rfl (htick a b)
  | prodTick a b => exact absurd rfl (hprod a b)
  | push a => simp only [bodyOf, State.pushBody]; split <;> rfl
  | _ => rfl

theorem perform_fsm (op : Op) (a : Agent) (th : Thread) (s : State) : (op.perform a th s).2.fsm = s.fsm := by
  obtain ⟨-, -, -, -, hfsm⟩ := perform_outside op a th s
  exact hfsm

/-- Settles O52: no entry but those of a PROD_TICK writes the latch, and no entry at all writes the FSM. -/
theorem outputLatchHasOneWriter : Obligations.OutputLatchHasOneWriter := by
  intro i s t hi hrun
  obtain ⟨g, hruns⟩ : ∃ g, Runs g i s t := by
    rcases hrun with hexec | ⟨⟨g, hnext⟩, hstep⟩
    · exact ⟨s.issuer, .inl ⟨rfl, hexec⟩⟩
    · exact ⟨g, .inr ⟨hnext, hstep⟩⟩
  have hlatch : t.outLatch = s.outLatch := by
    refine command_keeps (P := Op.keepsLatch) (I := fun u => u.outLatch = s.outLatch)
      ⟨fun _ _ _ h => h, fun _ _ _ h => h, fun _ _ _ h => h, fun _ h => h⟩ closed_keepsLatch (fun _ o => opening_keepsLatch hi)
      (fun u _ hu => ?_) (fun op th u ⟨hlatch, hcheck⟩ hu => (perform_outLatch op g th u hlatch hcheck).trans hu) rfl hruns
    obtain ⟨n, f, hbody⟩ := bodyOf_frame u i
    rw [hbody]; exact hu
  refine ⟨hlatch, fun hzero => ?_, fun hcfg htick => ?_⟩
  · rw [State.txKey, hlatch, hzero, Bool.false_and]
  · exact command_keeps (P := fun _ => True) (I := fun u => u.fsm = s.fsm)
      ⟨fun _ _ _ h => h, fun _ _ _ h => h, fun _ _ _ h => h, fun _ h => h⟩ (fun _ _ _ _ _ _ => trivial) (fun _ _ _ => trivial)
      (fun u _ hu => (bodyOf_fsm u hcfg htick hi).trans hu) (fun op th u _ hu => (perform_fsm op g th u).trans hu) rfl hruns

/-! ### O53: the stream -/

theorem SameStream.trans {s u t : State} (h : SameStream s u) (k : SameStream u t) : SameStream s t := by
  obtain ⟨h1, h2, h3, h4, h5⟩ := h
  obtain ⟨k1, k2, k3, k4, k5⟩ := k
  exact ⟨k1.trans h1, k2.trans h2, k3.trans h3, k4.trans h4, k5.trans h5⟩

theorem producerOnly_of_admits {i : Instr} {n : Nat} {g : Agent} (hg : g ≠ .producer) (h : (roleOf i).admits n g) :
    roleOf i ≠ .producerOnly := by
  intro hrole
  rw [hrole] at h
  exact hg h

/-- The preliminary work before a command's first micro-step writes the stream only in a producer's command. -/
theorem bodyOf_stream (s : State) {i : Instr} (hrole : roleOf i ≠ .producerOnly) : SameStream s (bodyOf s i).2 := by
  cases i with
  | strmInit | push _ | pushRaw _ | flush | iamCfg _ | iamTick _ _ | prodTick _ _ => exact absurd rfl hrole
  | _ => exact ⟨rfl, rfl, rfl, rfl, rfl⟩

/-- No run of a command of another agent than the producer writes the stream. -/
theorem sameStream_of_runs {i : Instr} {s t : State} {g : Agent} (hg : g ≠ .producer) (h : Runs g i s t) : SameStream s t :=
  command_keeps (P := fun op => op.writesStream = false) (I := SameStream s)
    ⟨fun _ _ _ h => h, fun _ _ _ h => h, fun _ _ _ h => h, fun _ h => h⟩ closed_quiet
    (fun hadmits _ => opening_quiet (producerOnly_of_admits hg hadmits))
    (fun u hadmits hu => hu.trans (bodyOf_stream u (producerOnly_of_admits hg hadmits)))
    (fun op th u hop hu => hu.trans (perform_stream op g th u hop)) ⟨rfl, rfl, rfl, rfl, rfl⟩ h

/-- A command of the producer's alone is refused to another agent (60_exceptions.md R405, R410). -/
theorem exec_errRole {i : Instr} {s : State} (hrole : roleOf i = .producerOnly) (hissuer : s.issuer ≠ .producer) :
    exec i s = .next (s.respond s.issuer (errorResponse .errRole)) :=
  exec_failed s i .errRole fun hadmits => producerOnly_of_admits hissuer hadmits hrole

/-- Settles O53. -/
theorem onlyTheProducerWritesTheStream : Obligations.OnlyTheProducerWritesTheStream := by
  intro i s t
  refine ⟨fun hissuer hexec => ⟨sameStream_of_runs hissuer (.inl ⟨rfl, hexec⟩), fun a hi => ?_⟩, fun g hg hnext hstep => ?_⟩
  · have hrole : roleOf i = .producerOnly := by
      simp only [List.mem_cons, List.not_mem_nil, or_false] at hi
      rcases hi with rfl | rfl | rfl | rfl <;> rfl
    rw [exec_errRole hrole hissuer] at hexec
    cases hexec
    exact congrArg Port.response (State.port_respond_same s s.issuer _)
  · exact sameStream_of_runs hg (.inr ⟨hnext, hstep⟩)

/-! ### O54: the contexts -/

/-- The context an entry is for: the one it writes, or the one that what it unfolds to may write. -/
def Op.context : Op → Option CtxIdx
  | .readLoad _ r => r.context
  | .slotCopy _ r => r.context
  | .hrtInit k _ => some k
  | .hrtFlag k => some k
  | .hrtLag k => some k
  | .hrtOverrun k => some k
  | .hrtResync k => some k
  | .beInit k _ _ => some k
  | .beLag k => some k
  | .beSkip k => some k
  | .beAgain k => some k
  | .beJump k => some k
  | _ => none

/-- An entry writes no context but the one it is for. -/
theorem context_of_ctxWritten {op : Op} {k : CtxIdx} (h : op.ctxWritten = some k) : op.context = some k := by
  cases op with
  | slotCopy _ _ | hrtInit _ _ | hrtResync _ | beInit _ _ _ | beSkip _ | beJump _ => exact h
  | _ => cases h

/-- What an entry unfolds to is for the same context, or for none. -/
theorem closed_context (k : CtxIdx) : Closed fun op => op.context ≠ some k := by
  apply closed_of
  case h10 => exact fun _ => ⟨nofun, nofun, fun _ => nofun, nofun, nofun, nofun⟩
  all_goals intros; assumption

/-- The entries a command starts with are for the issuer's own context, or for none. -/
theorem opening_context {i : Instr} {o : Op} {n : Nat} {g : Agent} {k : CtxIdx} (hrole : (roleOf i).admits n g) (h : opening i o)
    (ho : o.context = some k) : g.ownContext = some k := by
  have hwrites : o.writesSample = true ∨ o.writesFault = true → o.context = none := by
    intro hw
    cases o with
    | slotWriteBegin | slotWriteEnd _ | publish | clearIdle | setLast _ => rfl
    | storeCode _ | storeData _ | countFault | storeActive _ => rfl
    | _ => simp [Op.writesSample, Op.writesFault] at hw
  have hnone : o.context ≠ none := by rw [ho]; nofun
  cases i with
  | hrtInit _ _ | hrtTick _ | hrtResync _ | beInit _ _ _ | beTick _ => cases h; cases ho; exact hrole.1
  | push _ | pushRaw _ | flush => exact absurd (hwrites (.inl h)) hnone
  | fltSet _ _ => exact absurd (hwrites (.inr h.1)) hnone
  | fltClear => exact absurd (hwrites (.inr h)) hnone
  | strmInit => rcases h with rfl | rfl <;> cases ho
  | beDropped _ | iamCfg _ | iamTick _ _ => cases h
  | prodTick _ _ =>
    cases hrole
    rcases h with h | rfl | rfl | ⟨x, rfl⟩
    · exact absurd (hwrites (.inl h)) hnone
    · exact ho
    · cases ho
    · cases ho
  | _ => cases h; cases ho

/-- No run of a command writes another context than its agent's own. -/
theorem ctx_of_runs {i : Instr} {s t : State} {g : Agent} {k : CtxIdx} (hg : g.ownContext ≠ some k) (h : Runs g i s t) :
    t.ctx k = s.ctx k := by
  refine command_keeps (P := fun op => op.context ≠ some k) (I := fun u => u.ctx k = s.ctx k)
    ⟨fun _ _ _ h => h, fun _ _ _ h => h, fun _ _ _ h => h, fun _ h => h⟩ (closed_context k)
    (fun hadmits o ho hk => hg (opening_context hadmits ho hk)) (fun u _ hu => ?_)
    (fun op th u hop hu => (perform_ctx op g th u k fun hk => hop (context_of_ctxWritten hk)).trans hu) rfl h
  obtain ⟨n, f, hbody⟩ := bodyOf_frame u i
  rw [hbody]; exact hu

/-- Settles O54. -/
theorem contextsArePrivate : Obligations.ContextsArePrivate := by
  intro i s t k
  exact ⟨fun hissuer hexec => ctx_of_runs hissuer (.inl ⟨rfl, hexec⟩),
    fun g hg hnext hstep => ctx_of_runs hg (.inr ⟨hnext, hstep⟩)⟩

end Sys2Proof.Machine
end

section
/-!
PROOF of O59 (20_memory.md R89, R103, R105): every step keeps the views, and what was loaded, within the values that were stored. A
position stays within modification orders that grow; a load takes over a position that is there; a store adds the one it names.
-/

namespace Sys2Proof.Machine

/-! ### Positions in growing modification orders -/

/-- Every modification order of `t` is at least as long as that of `s`. -/
structure GrownFrom (s t : State) : Prop where
  w : s.w.top ≤ t.w.top
  active : s.active.top ≤ t.active.top
  code : s.code.top ≤ t.code.top
  data : s.data.top ≤ t.data.top
  count : s.count.top ≤ t.count.top

theorem View.within_mono {v : View} {s t : State} (hg : GrownFrom s t) (h : v.within s) : v.within t := by
  obtain ⟨hw, hactive, hcode, hdata, hcount⟩ := h
  exact ⟨hw.trans hg.w, hactive.trans hg.active, hcode.trans hg.code, hdata.trans hg.data, hcount.trans hg.count⟩

theorem Loaded.within_mono {l : Loaded} {s t : State} (hg : GrownFrom s t) (h : l.within s) : l.within t := by
  obtain ⟨hcode, hdata, hcount⟩ := h
  exact ⟨hcode.trans hg.code, hdata.trans hg.data, hcount.trans hg.count⟩

theorem View.within_join {x y : View} {s : State} (hx : x.within s) (hy : y.within s) : (x.join y).within s := by
  obtain ⟨hw, hactive, hcode, hdata, hcount⟩ := hx
  obtain ⟨kw, kactive, kcode, kdata, kcount⟩ := hy
  exact ⟨max_le hw kw, max_le hactive kactive, max_le hcode kcode, max_le hdata kdata, max_le hcount kcount⟩

/-- Every release store of the location carries a view within the modification orders. -/
def Cell.carriesWithin {n : Nat} (c : Cell n) (s : State) : Prop := c.rel.within s ∧ ∀ m ∈ c.past, m.2.within s

theorem viewsWithin_iff (s : State) : s.viewsWithin ↔
    (∀ a, (s.view a).within s ∧ (s.loaded a).within s) ∧ s.w.carriesWithin s ∧ s.active.carriesWithin s := Iff.rfl

section
variable {n : Nat} {c : Cell n} {s t : State}

theorem Cell.carriesWithin_mono (hg : GrownFrom s t) (h : c.carriesWithin s) : c.carriesWithin t := by
  obtain ⟨hrel, hpast⟩ := h
  exact ⟨View.within_mono hg hrel, fun m hm => View.within_mono hg (hpast m hm)⟩

theorem Cell.carriesWithin_store {v : View} (x : BitVec n) (hv : v.within s) (h : c.carriesWithin s) :
    (c.store x v).carriesWithin s := by
  obtain ⟨hrel, hpast⟩ := h
  exact ⟨hv, List.forall_mem_cons.2 ⟨hrel, hpast⟩⟩

/-- The view a load takes over is within, whatever its age. -/
theorem Cell.carriesWithin_atAge (h : c.carriesWithin s) (age : Nat) : (c.atAge age).2.within s := by
  obtain ⟨hrel, hpast⟩ := h
  cases age with
  | zero => exact hrel
  | succ age =>
    show (c.past.getD age (c.cur, c.rel)).2.within s
    rw [List.getD_eq_getElem?_getD]
    cases hm : c.past[age]? with
    | none => exact hrel
    | some m => exact hpast m (List.mem_of_getElem? hm)

end

/-! ### What the operations keep -/

section
variable {s t : State} {a : Agent}

theorem viewsWithin_setPort {p : Port} (hview : p.view.within s) (hloaded : p.loaded.within s) (h : s.viewsWithin) :
    (s.setPort a p).viewsWithin := by
  obtain ⟨hports, hcells⟩ := h
  refine ⟨fun b => ?_, hcells⟩
  by_cases hb : b = a
  · subst hb
    rw [State.view, State.loaded, State.port_setPort_same]
    exact ⟨hview, hloaded⟩
  · rw [State.view, State.loaded, State.port_setPort_other s p hb]
    exact hports b

/-- A port written with the view and the loads it had. -/
theorem viewsWithin_setPort_same {p : Port} (hview : p.view = s.view a) (hloaded : p.loaded = s.loaded a) (h : s.viewsWithin) :
    (s.setPort a p).viewsWithin := by
  have ⟨hports, _⟩ := h
  obtain ⟨hv, hl⟩ := hports a
  exact viewsWithin_setPort (hview ▸ hv) (hloaded ▸ hl) h

theorem viewsWithin_setView {v : View} (hv : v.within s) (h : s.viewsWithin) : (s.setView a v).viewsWithin := by
  have ⟨hports, _⟩ := h
  obtain ⟨-, hl⟩ := hports a
  exact viewsWithin_setPort hv hl h

theorem viewsWithin_setLoaded {l : Loaded} (hl : l.within s) (h : s.viewsWithin) : (s.setLoaded a l).viewsWithin := by
  have ⟨hports, _⟩ := h
  obtain ⟨hv, -⟩ := hports a
  exact viewsWithin_setPort hv hl h

theorem viewsWithin_markOverlapped (h : s.viewsWithin) : s.markOverlapped.viewsWithin := by
  obtain ⟨hports, hcells⟩ := h
  refine ⟨fun b => ?_, hcells⟩
  rw [State.view, State.loaded, port_markOverlapped]
  exact hports b

theorem viewsWithin_acqLoadW (h : s.viewsWithin) : (s.acqLoadW a).2.viewsWithin := by
  obtain ⟨hports, hw, -⟩ := (viewsWithin_iff s).1 h
  obtain ⟨hv, -⟩ := hports a
  have hnew : View.within { View.zero with w := s.w.top - s.loadAge (s.view a).w s.w.top } s :=
    ⟨Nat.sub_le _ _, Nat.zero_le _, Nat.zero_le _, Nat.zero_le _, Nat.zero_le _⟩
  exact viewsWithin_setView (s := s.dropAge) (View.within_join (View.within_join hv hnew) (Cell.carriesWithin_atAge hw _)) h

theorem viewsWithin_acqLoadActive (h : s.viewsWithin) : (s.acqLoadActive a).2.viewsWithin := by
  obtain ⟨hports, -, hactive⟩ := (viewsWithin_iff s).1 h
  obtain ⟨hv, -⟩ := hports a
  have hnew : View.within { View.zero with active := s.active.top - s.loadAge (s.view a).active s.active.top } s :=
    ⟨Nat.zero_le _, Nat.sub_le _ _, Nat.zero_le _, Nat.zero_le _, Nat.zero_le _⟩
  exact viewsWithin_setView (s := s.dropAge) (View.within_join (View.within_join hv hnew) (Cell.carriesWithin_atAge hactive _)) h

theorem viewsWithin_rlxLoadCode (h : s.viewsWithin) : (s.rlxLoadCode a).2.viewsWithin := by
  have ⟨hports, _⟩ := h
  obtain ⟨-, hcode, hdata, hcount⟩ := hports a
  exact viewsWithin_setLoaded (s := s.dropAge) ⟨max_le hcode (Nat.sub_le _ _), hdata, hcount⟩ h

theorem viewsWithin_rlxLoadData (h : s.viewsWithin) : (s.rlxLoadData a).2.viewsWithin := by
  have ⟨hports, _⟩ := h
  obtain ⟨-, hcode, hdata, hcount⟩ := hports a
  exact viewsWithin_setLoaded (s := s.dropAge) ⟨hcode, max_le hdata (Nat.sub_le _ _), hcount⟩ h

theorem viewsWithin_rlxLoadCount (h : s.viewsWithin) : (s.rlxLoadCount a).2.viewsWithin := by
  have ⟨hports, _⟩ := h
  obtain ⟨-, hcode, hdata, hcount⟩ := hports a
  exact viewsWithin_setLoaded (s := s.dropAge) ⟨hcode, hdata, max_le hcount (Nat.sub_le _ _)⟩ h

/-- Agent `a` stores: the orders grow, W and ACTIVE still carry views within them, and `a` takes over the position `v` of its store. -/
theorem viewsWithin_store {v : View} (hg : GrownFrom s t) (hports : t.ports = s.ports) (hv : v.within t)
    (hw : t.w.carriesWithin t) (hactive : t.active.carriesWithin t) (h : s.viewsWithin) : (t.setView a v).viewsWithin := by
  obtain ⟨hs, -⟩ := h
  refine viewsWithin_setView hv ⟨fun b => ?_, hw, hactive⟩
  obtain ⟨hvb, hlb⟩ := hs b
  rw [State.view, State.loaded, State.port_congr hports]
  exact ⟨View.within_mono hg hvb, Loaded.within_mono hg hlb⟩

theorem viewsWithin_relStoreW (x : Word32) (h : s.viewsWithin) : (s.relStoreW a x).viewsWithin := by
  obtain ⟨hports, hw, hactive⟩ := (viewsWithin_iff s).1 h
  obtain ⟨hv, -⟩ := hports a
  have hg : ∀ v, GrownFrom s { s with w := s.w.store x v } := fun _ => ⟨Nat.le_succ _, le_rfl, le_rfl, le_rfl, le_rfl⟩
  have hnew : ∀ v, ((s.view a).join { View.zero with w := s.w.top + 1 }).within { s with w := s.w.store x v } := fun v =>
    View.within_join (View.within_mono (hg v) hv) ⟨le_rfl, Nat.zero_le _, Nat.zero_le _, Nat.zero_le _, Nat.zero_le _⟩
  exact viewsWithin_store (hg _) rfl (hnew _) (Cell.carriesWithin_store x (hnew _) (Cell.carriesWithin_mono (hg _) hw))
    (Cell.carriesWithin_mono (hg _) hactive) h

theorem viewsWithin_relStoreActive (x : Bool) (h : s.viewsWithin) : (s.relStoreActive a x).viewsWithin := by
  obtain ⟨hports, hw, hactive⟩ := (viewsWithin_iff s).1 h
  obtain ⟨hv, -⟩ := hports a
  have hg : ∀ v, GrownFrom s { s with active := s.active.store (BitVec.ofBool x) v } := fun _ =>
    ⟨le_rfl, Nat.le_succ _, le_rfl, le_rfl, le_rfl⟩
  have hnew : ∀ v, ((s.view a).join { View.zero with active := s.active.top + 1 }).within
      { s with active := s.active.store (BitVec.ofBool x) v } := fun v =>
    View.within_join (View.within_mono (hg v) hv) ⟨Nat.zero_le _, le_rfl, Nat.zero_le _, Nat.zero_le _, Nat.zero_le _⟩
  exact viewsWithin_store (hg _) rfl (hnew _) (Cell.carriesWithin_mono (hg _) hw)
    (Cell.carriesWithin_store _ (hnew _) (Cell.carriesWithin_mono (hg _) hactive)) h

/-- A relaxed store: W and ACTIVE are as they were, and `a` takes over the position `new` of its store. -/
theorem viewsWithin_rlxStore {new : View} (hg : GrownFrom s t) (hports : t.ports = s.ports) (hw : t.w = s.w)
    (hactive : t.active = s.active) (hnew : new.within t) (h : s.viewsWithin) :
    (t.setView a ((s.view a).join new)).viewsWithin := by
  obtain ⟨hs, hcw, hca⟩ := (viewsWithin_iff s).1 h
  obtain ⟨hv, -⟩ := hs a
  exact viewsWithin_store hg hports (View.within_join (View.within_mono hg hv) hnew) (hw ▸ Cell.carriesWithin_mono hg hcw)
    (hactive ▸ Cell.carriesWithin_mono hg hca) h

theorem viewsWithin_rlxStoreCode (c : BitVec 8) (h : s.viewsWithin) : (s.rlxStoreCode a c).viewsWithin :=
  viewsWithin_rlxStore (t := { s with code := s.code.store c View.zero }) ⟨le_rfl, le_rfl, Nat.le_succ _, le_rfl, le_rfl⟩ rfl rfl rfl
    ⟨Nat.zero_le _, Nat.zero_le _, le_rfl, Nat.zero_le _, Nat.zero_le _⟩ h

theorem viewsWithin_rlxStoreData (d : Word32) (h : s.viewsWithin) : (s.rlxStoreData a d).viewsWithin :=
  viewsWithin_rlxStore (t := { s with data := s.data.store d View.zero }) ⟨le_rfl, le_rfl, le_rfl, Nat.le_succ _, le_rfl⟩ rfl rfl rfl
    ⟨Nat.zero_le _, Nat.zero_le _, Nat.zero_le _, le_rfl, Nat.zero_le _⟩ h

theorem viewsWithin_fetchAddCount (h : s.viewsWithin) : (s.fetchAddCount a).viewsWithin :=
  viewsWithin_rlxStore (t := { s with count := s.count.store (s.count.cur + 1#32) View.zero })
    ⟨le_rfl, le_rfl, le_rfl, le_rfl, Nat.le_succ _⟩ rfl rfl rfl
    ⟨Nat.zero_le _, Nat.zero_le _, Nat.zero_le _, Nat.zero_le _, le_rfl⟩ h

end

/-! ### What the entries keep -/

/-- The states that agent `a` may come to by at most one load. -/
inductive State.AfterLoad (s : State) (a : Agent) : State → Prop
  | none : s.AfterLoad a s
  | w : s.AfterLoad a (s.acqLoadW a).2
  | active : s.AfterLoad a (s.acqLoadActive a).2
  | code : s.AfterLoad a (s.rlxLoadCode a).2
  | data : s.AfterLoad a (s.rlxLoadData a).2
  | count : s.AfterLoad a (s.rlxLoadCount a).2

/-- An entry that writes neither the stream nor the fault record writes the ports as one load does, or not at all (00_scope.md R16). -/
theorem perform_ports {op : Op} (a : Agent) (th : Thread) (s : State) (hstream : op.writesStream = false)
    (hfault : op.writesFault = false) : ∃ u, s.AfterLoad a u ∧ (op.perform a th s).2.ports = u.ports := by
  cases op with
  | strmZero | strmPublish | slotWriteBegin | slotWriteEnd _ | publish | clearIdle | setLast _ => cases hstream
  | storeCode _ | storeData _ | countFault | storeActive _ => cases hfault
  | result _ _ => exact ⟨s, .none, rfl⟩
  | fltCode => exact ⟨_, .code, rfl⟩
  | fltData => exact ⟨_, .data, rfl⟩
  | fltCount => exact ⟨_, .count, rfl⟩
  | fltActive => exact ⟨_, .active, rfl⟩
  | wpos | lag _ | overrun _ | hrtInit _ _ | hrtResync _ | beInit _ _ _ | beJump _ => exact ⟨_, .w, rfl⟩
  | readLoad i r =>
    refine ⟨_, .w, ?_⟩
    simp only [Op.perform, runReadLoad]
    split
    · rw [readFailed_state]
    · rfl
  | slotCopy i r =>
    obtain ⟨c, d, h⟩ := runSlotCopy_frame i r th s
    exact ⟨s, .none, by rw [Op.perform, h]⟩
  | latch =>
    obtain ⟨b, h⟩ := takeLatch_frame s th.kind th.value
    exact ⟨s, .none, by rw [Op.perform, h]⟩
  | hrtFlag k => exact ⟨_, .active, by simp only [Op.perform, runHrtFlag]; split <;> rfl⟩
  | faultCheck x => exact ⟨_, .active, by simp only [Op.perform, runFaultCheck]; split <;> rfl⟩
  | hrtLag k => exact ⟨_, .w, by simp only [Op.perform, runHrtLag]; (repeat' split) <;> rfl⟩
  | hrtOverrun k => exact ⟨_, .w, by simp only [Op.perform, runHrtOverrun]; split <;> rfl⟩
  | beLag k => exact ⟨_, .w, by simp only [Op.perform, runBeLag]; (repeat' split) <;> rfl⟩
  | beSkip k => exact ⟨_, .w, by simp only [Op.perform, runBeSkip]; split <;> rfl⟩
  | beAgain k => exact ⟨_, .w, by simp only [Op.perform, runBeAgain]; split <;> rfl⟩

theorem viewsWithin_afterLoad {s u : State} {a : Agent} (hu : s.AfterLoad a u) (h : s.viewsWithin) : u.viewsWithin := by
  cases hu with
  | none => exact h
  | w => exact viewsWithin_acqLoadW h
  | active => exact viewsWithin_acqLoadActive h
  | code => exact viewsWithin_rlxLoadCode h
  | data => exact viewsWithin_rlxLoadData h
  | count => exact viewsWithin_rlxLoadCount h

/-- No load stores. -/
theorem afterLoad_cells {s u : State} {a : Agent} (hu : s.AfterLoad a u) : u.w = s.w ∧ SameFault s u := by
  cases hu <;> exact ⟨rfl, rfl, rfl, rfl, rfl⟩

/-- The views are within as soon as they are in a state with the same ports and the same shared locations. -/
theorem viewsWithin_congr {s t : State} (hports : t.ports = s.ports) (hw : t.w = s.w) (hfault : SameFault s t) (h : s.viewsWithin) :
    t.viewsWithin := by
  obtain ⟨hactive, hcode, hdata, hcount⟩ := hfault
  simpa only [State.viewsWithin, View.within, Loaded.within, State.view, State.loaded, State.port, hports, hw, hactive, hcode, hdata,
    hcount] using h

theorem viewsWithin_perform (op : Op) (a : Agent) (th : Thread) {s : State} (h : s.viewsWithin) :
    (op.perform a th s).2.viewsWithin := by
  cases hstream : op.writesStream with
  | true =>
    cases op with
    | strmZero => exact viewsWithin_markOverlapped (s := s.zeroStream) h
    | strmPublish => exact viewsWithin_markOverlapped (viewsWithin_relStoreW 0#32 h)
    | publish => exact viewsWithin_relStoreW _ h
    | slotWriteBegin | slotWriteEnd _ | clearIdle | setLast _ => exact h
    | _ => cases hstream
  | false =>
    cases hfault : op.writesFault with
    | true =>
      cases op with
      | storeCode c => exact viewsWithin_rlxStoreCode c h
      | storeData d => exact viewsWithin_rlxStoreData d h
      | countFault => exact viewsWithin_fetchAddCount h
      | storeActive b => exact viewsWithin_relStoreActive b h
      | _ => cases hfault
    | false =>
      obtain ⟨u, hu, hports⟩ := perform_ports a th s hstream hfault
      obtain ⟨huw, hua, huc, hud, hun⟩ := afterLoad_cells hu
      obtain ⟨htw, -⟩ := perform_stream op a th s hstream
      obtain ⟨hta, htc, htd, htn⟩ := perform_fault op a th s hfault
      exact viewsWithin_congr hports (htw.trans huw.symm)
        ⟨hta.trans hua.symm, htc.trans huc.symm, htd.trans hud.symm, htn.trans hun.symm⟩ (viewsWithin_afterLoad hu h)

/-! ### O59 -/

theorem viewsWithin_resetWith (p : Params) : (State.resetWith p).viewsWithin := by
  obtain ⟨-, -, -, -, -, -, -, h⟩ := resetHasEveryInvariant p
  exact h

theorem stepRule_viewsWithin : StepRule State.viewsWithin fun _ _ s => s.viewsWithin where
  reset s _ _ := viewsWithin_resetWith s.params
  serving _ _ _ h := h
  inbox _ _ _ h := h
  answer _ _ _ _ h := viewsWithin_setPort_same rfl rfl h
  resume _ _ _ _ h := viewsWithin_setPort_same rfl rfl h
  issue s i _ _ h := by
    obtain ⟨n, f, hbody⟩ := bodyOf_frame s i
    rw [hbody]; exact h
  spend _ _ _ h := h
  perform op _ a _ _ _ h := viewsWithin_perform op a _ h
  finish _ _ _ _ h := viewsWithin_setPort_same rfl rfl h
  park _ _ _ h := viewsWithin_setPort_same rfl rfl h

/-- Settles O59: every entry keeps the views within (`viewsWithin_perform`), and so does everything else a step does. -/
theorem stepKeepsTheViewsWithin : Obligations.StepKeepsTheViewsWithin := fun _ _ h hstep => stepRule_viewsWithin.step h hstep

end Sys2Proof.Machine
end

section
/-!
PROOFS of O7 (what a step does with the schedule), O19 (observers change nothing; 20_memory.md R91), and O16 and O17 (the copy of a
READ; 20_memory.md R95, 40_stream.md R210).
-/

namespace Sys2Proof.Machine

/-! ### O7: serving a slice -/

/-- A step that serves an agent the block has serves its slice in the state with the rest of the schedule. -/
theorem step_serve {s : State} {slice : Slice} {rest : List Turn} (hturns : s.turns = .serve slice :: rest)
    (hport : s.hasPort slice.agent = true) : step s = serve slice (s.serving slice rest) := by
  rw [step, hturns]
  exact if_pos hport

theorem serve_thread {s : State} {slice : Slice} {th : Thread} (hth : (s.port slice.agent).thread = some th) :
    serve slice s = .next (s.resume slice.agent th) := by
  simp only [serve, hth]

theorem serve_idle {s : State} {slice : Slice} (hidle : (s.port slice.agent).thread = none) (hinbox : s.inbox slice.agent = []) :
    serve slice s = .next s := by
  simp only [serve, hidle, hinbox]

theorem serve_command {s : State} {slice : Slice} {c : Command} {cs : List Command} {i : Instr}
    (hidle : (s.port slice.agent).thread = none) (hinbox : s.inbox slice.agent = c :: cs) (hdecode : decode c = .ok i) :
    serve slice s = exec i (s.setInbox slice.agent cs) := by
  simp only [serve, hidle, hinbox, hdecode]

/-- Settles O7: the port and the queue of the agent served decide which of the three cases of `serve` it is. -/
theorem stepIssuesTheDecodedCommand : Obligations.StepIssuesTheDecodedCommand := by
  intro s slice rest hturns hport
  rw [step_serve hturns hport]
  exact ⟨fun th hth => serve_thread hth, fun hidle =>
    ⟨fun c cs i hinbox hdecode => serve_command hidle hinbox hdecode, fun hinbox => serve_idle hidle hinbox⟩⟩

/-! ### What a command leaves outside the block -/

theorem SameOutside.trans {s u t : State} (hagent : u.issuer = s.issuer) (h : SameOutside s u) (k : SameOutside u t) :
    SameOutside s t := by
  obtain ⟨h1, h2, h3, h4⟩ := h
  obtain ⟨k1, k2, k3, k4⟩ := k
  exact ⟨k1.trans h1, k2.trans h2, k3.trans h3, fun b hb => (k4 b (hagent ▸ hb)).trans (h4 b hb)⟩

theorem sameOutside_setPort (s : State) (p : Port) : SameOutside s (s.setPort s.issuer p) :=
  ⟨rfl, rfl, rfl, fun _ hb => State.port_setPort_other s p hb⟩

/-- An entry that marks no command in progress. -/
def Op.marksNone (op : Op) : Prop := op ≠ .strmZero ∧ op ≠ .strmPublish

theorem closed_marksNone : Closed Op.marksNone := by
  unfold Op.marksNone
  apply closed_of <;> simp

theorem opening_marksNone {i : Instr} {o : Op} (hi : i ≠ .strmInit) (h : opening i o) : o.marksNone := by
  have hwrites : ∀ o : Op, o.writesSample = true ∨ o.writesFault = true → o.marksNone := by
    intro o ho
    constructor <;> rintro rfl <;> simp [Op.writesSample, Op.writesFault] at ho
  cases i with
  | strmInit => exact absurd rfl hi
  | push _ | pushRaw _ | flush => exact hwrites o (.inl h)
  | fltSet _ _ => exact hwrites o (.inr h.1)
  | fltClear => exact hwrites o (.inr h)
  | prodTick _ _ =>
    rcases h with h | rfl | rfl | ⟨x, rfl⟩
    · exact hwrites o (.inl h)
    all_goals exact ⟨nofun, nofun⟩
  | beDropped _ | iamCfg _ | iamTick _ _ => cases h
  | _ => cases h; exact ⟨nofun, nofun⟩

/-- No command but STRM_INIT touches the parameters, the queues, the schedule or the port of another agent, wherever it is switched
out. -/
theorem sameOutside_of_exec {i : Instr} {s t : State} (hi : i ≠ .strmInit) (ht : exec i s = .next t) : SameOutside s t := by
  have hport : ∀ u p, u.issuer = s.issuer ∧ SameOutside s u → SameOutside s (u.setPort s.issuer p) := fun u p ⟨ha, hu⟩ =>
    hu.trans ha (ha ▸ sameOutside_setPort u p)
  have hbody : ∀ n f, (bodyOf s i).2 = { s with idleCnt := n, fsm := f } →
      (bodyOf s i).2.issuer = s.issuer ∧ SameOutside s (bodyOf s i).2 := by
    intro n f h
    rw [h]; exact ⟨rfl, rfl, rfl, rfl, fun _ _ => rfl⟩
  have hperform : ∀ (op : Op) th u, op.marksNone → u.issuer = s.issuer ∧ SameOutside s u →
      (op.perform s.issuer th u).2.issuer = s.issuer ∧ SameOutside s (op.perform s.issuer th u).2 := by
    rintro op th u ⟨hzero, hpublish⟩ ⟨ha, hu⟩
    obtain ⟨hparams, hinboxes, hturns, hagent, -⟩ := perform_outside op s.issuer th u
    exact ⟨hagent.trans ha, hu.trans ha ⟨hparams, hinboxes, hturns, fun b hb =>
      perform_port_other op _ b th u (ha ▸ hb) hzero hpublish⟩⟩
  rcases exec_track i s t Op.marksNone (fun u => u.issuer = s.issuer ∧ SameOutside s u) ht closed_marksNone
    (fun _ _ => opening_marksNone hi) (fun _ => hbody) (fun _ hu => hu) hperform with ⟨st, -, rfl⟩ | ⟨th, u, hu, -, rfl | rfl⟩
  · exact sameOutside_setPort s _
  · exact hport u _ hu
  · exact hport u _ hu

/-! ### O19: the observers -/

theorem SameBlock.trans {s u t : State} (h : SameBlock s u) (k : SameBlock u t) : SameBlock s t := by
  obtain ⟨hstream, ⟨h1, h2, h3, h4⟩, hctxs, hfsm, hlatch⟩ := h
  obtain ⟨kstream, ⟨k1, k2, k3, k4⟩, kctxs, kfsm, klatch⟩ := k
  exact ⟨hstream.trans kstream, ⟨k1.trans h1, k2.trans h2, k3.trans h3, k4.trans h4⟩, kctxs.trans hctxs, kfsm.trans hfsm,
    klatch.trans hlatch⟩

/-- An entry that loads for its agent and writes no element of the block. -/
def Op.observes (op : Op) : Prop :=
  op.writesStream = false ∧ op.writesFault = false ∧ op.context = none ∧ op.keepsLatch

/-- What an observing entry unfolds to observes: only the ticks' entries, which are for a context, raise faults or move cursors. -/
theorem closed_observes : Closed Op.observes := by
  apply closed_of
  case h1 => exact fun _ _ ⟨_, _, hcontext, _⟩ => ⟨rfl, rfl, hcontext, nofun, nofun⟩
  case h10 =>
    rintro (⟨i, k, -, -, hcontext, -⟩ | ⟨k, -, -, hcontext, -⟩ | ⟨k, -, -, hcontext, -⟩) <;> cases hcontext
  all_goals
    intros
    obtain ⟨-, -, hcontext, -⟩ := ‹Op.observes _›
    cases hcontext

theorem sameBlock_perform {op : Op} (a : Agent) (th : Thread) (s : State) (h : op.observes) : SameBlock s (op.perform a th s).2 := by
  obtain ⟨hstream, hfault, hcontext, hlatch, hcheck⟩ := h
  have hctx : op.ctxWritten = none := by
    cases hw : op.ctxWritten with
    | none => rfl
    | some k => rw [context_of_ctxWritten hw] at hcontext; cases hcontext
  exact ⟨perform_stream op a th s hstream, perform_fault op a th s hfault, perform_ctxs op a th s hctx, perform_fsm op a th s,
    perform_outLatch op a th s hlatch hcheck⟩

/-- A command that starts with observing entries, with nothing done before them. -/
structure IsObserver (i : Instr) : Prop where
  opening : ∀ o, Machine.opening i o → o.observes
  body : ∀ s, (bodyOf s i).2 = s

theorem observes_of_mem {i : Instr} {a : Word64}
    (h : i ∈ [.read a, .wpos, .lag a, .overrun a, .fltActive, .fltCode, .fltData, .fltCount]) : IsObserver i := by
  simp only [List.mem_cons, List.not_mem_nil, or_false] at h
  rcases h with rfl | rfl | rfl | rfl | rfl | rfl | rfl | rfl <;>
    exact ⟨fun o ho => by cases ho; exact ⟨rfl, rfl, rfl, nofun, nofun⟩, fun _ => rfl⟩

/-- No run of an observer changes an element of the block. -/
theorem sameBlock_of_runs {i : Instr} {g : Agent} {s t : State} (hi : IsObserver i) (h : Runs g i s t) : SameBlock s t :=
  command_keeps (P := Op.observes) (I := SameBlock s) ⟨fun _ _ _ h => h, fun _ _ _ h => h, fun _ _ _ h => h, fun _ h => h⟩
    closed_observes (fun _ => hi.opening) (fun u _ hu => (hi.body u).symm ▸ hu)
    (fun _ th u hop hu => hu.trans (sameBlock_perform g th u hop))
    ⟨⟨rfl, rfl, rfl, rfl, rfl⟩, ⟨rfl, rfl, rfl, rfl⟩, rfl, rfl, rfl⟩ h

theorem IsObserver.ne_strmInit {i : Instr} (hi : IsObserver i) : i ≠ .strmInit := by
  rintro rfl
  obtain ⟨hstream, -⟩ := hi.opening .strmZero (.inl rfl)
  cases hstream

/-- Settles O19. -/
theorem observersChangeNothing : Obligations.ObserversChangeNothing := by
  intro i a s t hmem
  have hi := observes_of_mem hmem
  exact ⟨fun hexec => ⟨sameBlock_of_runs hi (.inl ⟨rfl, hexec⟩), sameOutside_of_exec hi.ne_strmInit hexec⟩,
    fun g hnext hstep => sameBlock_of_runs hi (.inr ⟨hnext, hstep⟩)⟩

/-! ### O16 and O17: the copy of a READ -/

section
variable {a : Agent} {s u : State} {n : Nat} {rest : List Op} {kd : Kind} {v : Word64} {o : Bool}

/-- The copy of a READ that does not race answers the slot. -/
theorem run_slotCopy_plain (i : LogIdx) (h : Like a s u) (hcopy : s.copyDraws o i = false) :
    drive a (n + 1) ⟨.slotCopy i .plain :: rest, kd, v, o⟩ u = drive a n ⟨rest, .ok, (s.slot (s.slotOf i)).zeroExtend 64, o⟩ u := by
  rw [run_op _ _ _ _ _ _ _ _ h.budget]
  simp only [Op.perform, runSlotCopy_eq, copySlot_clear u o i ((h.copy o i).trans hcopy), readSucceeded, Thread.withResult, slot_like h]

/-- The copy of a READ that races answers the next draw, and uses it up. -/
theorem run_slotCopy_plain_draw (i : LogIdx) (h : Like a s u) (hcopy : s.copyDraws o i = true) :
    drive a (n + 1) ⟨.slotCopy i .plain :: rest, kd, v, o⟩ u =
      drive a n ⟨rest, .ok, (Config.slotDraw s.draws).zeroExtend 64, o⟩ { u with draws := s.draws + 1 } := by
  rw [run_op _ _ _ _ _ _ _ _ h.budget]
  simp only [Op.perform, runSlotCopy_eq, copySlot_draw u o i ((h.copy o i).trans hcopy), readSucceeded, Thread.withResult, h.draws]

end

/-- READ is admitted from every agent once its operand is legal (60_exceptions.md R408, R410). -/
theorem admits_read {a : Word64} (s : State) (h : (Instr.read a).wellFormed = true) : s.admitsCommand (.read a) :=
  ⟨trivial, id, id, h, id⟩

/-- A READ that ends answered, in whatever state, has changed neither the block nor anything outside it. -/
theorem read_ends {a : Word64} {s u : State} {k : Kind} {v : Word64} (hwf : (Instr.read a).wellFormed = true)
    (hrun : drive s.issuer sliceFuel ⟨[.readLoad (operandWord a) .plain], .ok, 0, false⟩ s =
      u.respond s.issuer { status := .ok, kind := k, v := v }) :
    Ends s (exec (.read a) s) (okResponse k v) fun t => SameBlock s t ∧ SameOutside s t ∧ t.draws = u.draws :=
  ends_of (.read a) s u k v (admits_read s hwf) _ hrun fun hexec =>
    have hi : IsObserver (.read a) := observes_of_mem (a := a) List.mem_cons_self
    ⟨sameBlock_of_runs hi (.inl ⟨rfl, hexec⟩), sameOutside_of_exec hi.ne_strmInit hexec, rfl⟩

/-- The window `1 <= W - i <= CAP` as the model tests it (20_memory.md R87). -/
theorem window_iff (p : Params) (x : Word32) :
    x = 0#32 ∨ p.cap < x ↔ x.toNat = 0 ∨ 2 ^ p.capLog2.val < x.toNat := by
  rw [Params.cap_lt_iff, ← BitVec.toNat_inj]
  rfl

/-- READ of an index inside the window runs its copy, in a state with the same stream and draws. -/
theorem read_inWindow {i : LogIdx} {s : State} {w : Word32} (hb : s.unlimited) (hw : s.loadsW s.issuer [w])
    (hlow : 1 ≤ (w - i).toNat) (hhigh : (w - i).toNat ≤ 2 ^ s.params.capLog2.val) :
    ∃ x, Like s.issuer s x ∧ drive s.issuer sliceFuel ⟨[.readLoad i .plain], .ok, 0, false⟩ s =
      drive s.issuer 39 ⟨[.slotCopy i .plain], .ok, 0, false⟩ x := by
  have hin : ¬ (w - i = 0#32 ∨ s.params.cap < w - i) := by rw [window_iff]; omega
  obtain ⟨hne, hle⟩ := not_or.1 hin
  obtain ⟨x, hx, -, -, hrun⟩ := run_readLoad_in i .plain (Like.refl hb) hw hne hle
  exact ⟨x, hx, hrun⟩

/-- Settles O16: inside the window the copy gives the slot; outside it the load alone answers NO_DATA. -/
theorem readAnswersTheSlotInsideTheWindow : Obligations.ReadAnswersTheSlotInsideTheWindow := by
  intro a s w hb hwf hw
  have same : ∀ {k v}, (∃ x, Like s.issuer s x ∧ drive s.issuer sliceFuel ⟨[.readLoad (operandWord a) .plain], .ok, 0, false⟩ s =
      x.respond s.issuer { status := .ok, kind := k, v := v }) → Ends s (exec (.read a) s) (okResponse k v) (SameButPort s) := by
    rintro k v ⟨x, hx, hrun⟩
    obtain ⟨t, hexec, hidle, hresponse, hblock, houtside, hdraws⟩ := read_ends hwf hrun
    exact ⟨t, hexec, hidle, hresponse, hblock, houtside, hdraws.trans hx.draws⟩
  refine ⟨fun hlow hhigh hcopy => same ?_, fun hout => same ?_⟩
  · obtain ⟨x, hx, hrun⟩ := read_inWindow hb hw hlow hhigh
    exact ⟨x, hx, by rw [hrun, run_slotCopy_plain _ hx hcopy, run_done]⟩
  · obtain ⟨x, hx, -, -, hrun⟩ := run_readLoad_fail (n := 39) (rest := []) (kd := .ok) (v := 0) (o := false) (operandWord a) .plain
      (Like.refl hb) hw ((window_iff _ _).2 hout)
    exact ⟨x, hx, hrun.trans (run_done _ _ _ _ _ _)⟩

/-- Settles O17: a copy that races uses up one draw and answers it. -/
theorem readThatRacesAnOverwriteDraws : Obligations.ReadThatRacesAnOverwriteDraws := by
  intro a s w hb hwf hw hlow hhigh hrace
  have hcopy : s.copyDraws false (operandWord a) = true := by
    simpa only [State.copyDraws, Bool.false_or, Bool.or_eq_true, decide_eq_true_eq, Params.cap_lt_iff] using hrace
  obtain ⟨x, hx, hrun⟩ := read_inWindow hb hw hlow hhigh
  refine read_ends (u := { x with draws := s.draws + 1 }) hwf ?_
  rw [hrun, run_slotCopy_plain_draw _ hx hcopy, run_done]

end Sys2Proof.Machine
end

section
/-!
PROOFS of O20 and O38 (what WPOS and the fault observers may answer; 20_memory.md R103, R105, R106), and of O41 (the flag of a fault
publishes its record; R101, 43_fault.md R283). Each observer is one load, whose age is any the rules allow; the release store of the
flag carries a view that has the record, and the load of the flag takes it over.
-/

namespace Sys2Proof.Machine

/-! ### Commands of one entry -/

/-- A command of one entry that puts nothing in front of the rest answers what that entry gives. -/
theorem exec_oneEntry {i : Instr} {op : Op} {v : Word64} {s u : State} (hb : s.unlimited) (hadmits : s.admitsCommand i)
    (hbody : bodyOf s i = (Thread.start [op] 0, s))
    (hperform : op.perform s.issuer (Thread.start [] 0) s = ((Thread.start [] 0).withResult .ok v, u)) :
    exec i s = .next (u.respond s.issuer (okResponse .ok v)) := by
  have hrun : drive s.issuer sliceFuel (Thread.start [op] 0) s = u.respond s.issuer (okResponse .ok v) :=
    calc drive s.issuer sliceFuel (Thread.start [op] 0) s
        = drive s.issuer 39 (op.perform s.issuer (Thread.start [] 0) s).1 (op.perform s.issuer (Thread.start [] 0) s).2 :=
          run_op s.issuer 39 op [] _ _ _ s hb
      _ = drive s.issuer 39 ((Thread.start [] 0).withResult .ok v) u := by rw [hperform]
      _ = u.respond s.issuer (okResponse .ok v) := run_done _ _ _ _ _ _
  rw [exec_admitted s i hadmits, hbody]
  exact congrArg _ hrun

/-- A command known to end in an answered state has ended with that answer. -/
theorem ends_of_exec {i : Instr} {s u : State} {r : Response} {post : State → Prop} (h : exec i s = .next (u.respond s.issuer r))
    (hpost : post (u.respond s.issuer r)) : Ends s (exec i s) r post :=
  ⟨_, h, by rw [State.port_respond_same], by rw [State.port_respond_same], hpost⟩

section
variable {s : State} (hb : s.unlimited)
include hb

theorem exec_wpos : exec .wpos s =
    .next ((s.acqLoadW s.issuer).2.respond s.issuer (okResponse .ok ((s.acqLoadW s.issuer).1.zeroExtend 64))) :=
  exec_oneEntry hb ⟨trivial, id, id, rfl, id⟩ rfl rfl

theorem exec_fltActive : exec .fltActive s =
    .next ((s.acqLoadActive s.issuer).2.respond s.issuer
      (okResponse .ok ((BitVec.ofBool (s.acqLoadActive s.issuer).1).zeroExtend 64))) :=
  exec_oneEntry hb ⟨trivial, id, id, rfl, id⟩ rfl rfl

theorem exec_fltCode : exec .fltCode s =
    .next ((s.rlxLoadCode s.issuer).2.respond s.issuer (okResponse .ok ((s.rlxLoadCode s.issuer).1.zeroExtend 64))) :=
  exec_oneEntry hb ⟨trivial, id, id, rfl, id⟩ rfl rfl

theorem exec_fltData : exec .fltData s =
    .next ((s.rlxLoadData s.issuer).2.respond s.issuer (okResponse .ok ((s.rlxLoadData s.issuer).1.zeroExtend 64))) :=
  exec_oneEntry hb ⟨trivial, id, id, rfl, id⟩ rfl rfl

theorem exec_fltCount : exec .fltCount s =
    .next ((s.rlxLoadCount s.issuer).2.respond s.issuer (okResponse .ok ((s.rlxLoadCount s.issuer).1.zeroExtend 64))) :=
  exec_oneEntry hb ⟨trivial, id, id, rfl, id⟩ rfl rfl

end

/-! ### O20 and O38: the values an observer may answer -/

section
variable {s : State} {a : Agent}

/-- The agent's later loads of W return nothing older than this one ((a) of R103). -/
theorem acqLoadW_seen : s.w.top - s.loadAge (s.view a).w s.w.top ≤ ((s.acqLoadW a).2.view a).w := by
  rw [State.acqLoadW, State.view_setView]
  exact le_max_of_le_left (le_max_right _ _)

theorem acqLoadActive_seen :
    s.active.top - s.loadAge (s.view a).active s.active.top ≤ ((s.acqLoadActive a).2.view a).active := by
  rw [State.acqLoadActive, State.view_setView]
  exact le_max_of_le_left (le_max_right _ _)

theorem rlxLoadCode_seen : s.code.top - s.loadAge (s.seenCode a) s.code.top ≤ (s.rlxLoadCode a).2.seenCode a := by
  simp only [State.rlxLoadCode, State.seenCode, State.loaded_setLoaded]
  exact le_max_of_le_right (le_max_right _ _)

theorem rlxLoadData_seen : s.data.top - s.loadAge (s.seenData a) s.data.top ≤ (s.rlxLoadData a).2.seenData a := by
  simp only [State.rlxLoadData, State.seenData, State.loaded_setLoaded]
  exact le_max_of_le_right (le_max_right _ _)

theorem rlxLoadCount_seen : s.count.top - s.loadAge (s.seenCount a) s.count.top ≤ (s.rlxLoadCount a).2.seenCount a := by
  simp only [State.rlxLoadCount, State.seenCount, State.loaded_setLoaded]
  exact le_max_of_le_right (le_max_right _ _)

/-- The load of ACTIVE as a value of its modification order: the model gives it as a truth value. -/
theorem ofBool_acqLoadActive :
    BitVec.ofBool (s.acqLoadActive a).1 = (s.active.atAge (s.loadAge (s.view a).active s.active.top)).1 := by
  have hbit : ∀ b : BitVec 1, BitVec.ofBool (b == 1#1) = b := by decide
  rw [State.acqLoadActive_value, hbit]

end

/-- An observer whose load takes the age `loadAge` answers exactly the allowed values: that age is allowed, and an allowed age that the
slice asks for is the one the load takes. -/
theorem answersAnyOf_of_load {i : Instr} {s u : State} {oldest top : Nat} {value : Nat → Word64} {seen : Nat → State → Prop}
    (hi : IsObserver i) (hexec : exec i s = .next (u.respond s.issuer (okResponse .ok (value (s.loadAge oldest top)))))
    (hdraws : u.draws = s.draws)
    (hseen : seen (s.loadAge oldest top) (u.respond s.issuer (okResponse .ok (value (s.loadAge oldest top))))) :
    AnswersAnyOf s i (top - oldest) value seen := by
  have hblock := sameBlock_of_runs hi (.inl ⟨rfl, hexec⟩)
  have houtside := sameOutside_of_exec hi.ne_strmInit hexec
  have hends : Ends s (exec i s) (okResponse .ok (value (s.loadAge oldest top))) fun t =>
      SameButPort s t ∧ seen (s.loadAge oldest top) t := ends_of_exec hexec ⟨⟨hblock, houtside, hdraws⟩, hseen⟩
  refine ⟨⟨s.loadAge oldest top, min_le_right _ _, hends⟩, fun age hage hasked => ?_⟩
  have htaken : s.loadAge oldest top = age := by
    rw [State.loadAge, State.nextAge, hasked, Nat.min_eq_left hage]
  rwa [htaken] at hends

/-- A response writes neither the view nor the loads of its port. -/
theorem seenCode_respond (s : State) (a : Agent) (r : Response) : (s.respond a r).seenCode a = s.seenCode a := by
  rw [State.seenCode, view_respond, loaded_respond]; rfl

theorem seenData_respond (s : State) (a : Agent) (r : Response) : (s.respond a r).seenData a = s.seenData a := by
  rw [State.seenData, view_respond, loaded_respond]; rfl

theorem seenCount_respond (s : State) (a : Agent) (r : Response) : (s.respond a r).seenCount a = s.seenCount a := by
  rw [State.seenCount, view_respond, loaded_respond]; rfl

/-- Settles O20. -/
theorem wposReturnsExactlyTheAllowedValues : Obligations.WposReturnsExactlyTheAllowedValues := by
  intro s hb
  exact answersAnyOf_of_load (observes_of_mem (a := 0) (by simp)) (exec_wpos hb) rfl (by rw [view_respond]; exact acqLoadW_seen)

/-- Settles O38. -/
theorem faultObserversAnswerTheRecord : Obligations.FaultObserversAnswerTheRecord := by
  intro s hb
  have hactive := exec_fltActive hb
  rw [ofBool_acqLoadActive] at hactive
  refine ⟨?_, ?_, ?_, ?_⟩
  · exact answersAnyOf_of_load (observes_of_mem (a := 0) (by simp)) hactive rfl (by rw [view_respond]; exact acqLoadActive_seen)
  · exact answersAnyOf_of_load (observes_of_mem (a := 0) (by simp)) (exec_fltCode hb) rfl
      (by rw [seenCode_respond]; exact rlxLoadCode_seen)
  · exact answersAnyOf_of_load (observes_of_mem (a := 0) (by simp)) (exec_fltData hb) rfl
      (by rw [seenData_respond]; exact rlxLoadData_seen)
  · exact answersAnyOf_of_load (observes_of_mem (a := 0) (by simp)) (exec_fltCount hb) rfl
      (by rw [seenCount_respond]; exact rlxLoadCount_seen)

/-! ### O41: the flag publishes the record -/

/-- The view has the latest CODE, DATA and COUNT. -/
def View.hasRecord (v : View) (s : State) : Prop := s.code.top ≤ v.code ∧ s.data.top ≤ v.data ∧ s.count.top ≤ v.count

theorem View.hasRecord_join_left {x : View} (y : View) {s : State} (h : x.hasRecord s) : (x.join y).hasRecord s := by
  obtain ⟨hcode, hdata, hcount⟩ := h
  exact ⟨le_max_of_le_left hcode, le_max_of_le_left hdata, le_max_of_le_left hcount⟩

theorem View.hasRecord_join_right (x : View) {y : View} {s : State} (h : y.hasRecord s) : (x.join y).hasRecord s := by
  obtain ⟨hcode, hdata, hcount⟩ := h
  exact ⟨le_max_of_le_right hcode, le_max_of_le_right hdata, le_max_of_le_right hcount⟩

/-- The block after a whole `FaultSet(code, data)` of agent `a` (43_fault.md R281). -/
def State.faultSet (s : State) (a : Agent) (code : BitVec 8) (data : Word32) : State :=
  (((s.rlxStoreCode a code).rlxStoreData a data).fetchAddCount a).relStoreActive a true

/-- The entries of a FaultSet whose agent is not switched out are that state. -/
theorem run_faultSetNumberOps (a : Agent) (n : Nat) (code : BitVec 8) (data : Word32) (rest : List Op) (kd : Kind) (v : Word64) (o : Bool)
    (s : State) (hb : s.turn.budget = none) :
    drive a (n + 4) ⟨faultSetNumberOps code data ++ rest, kd, v, o⟩ s = drive a n ⟨rest, kd, v, o⟩ (s.faultSet a code data) := by
  calc drive a (n + 4) ⟨.storeCode code :: .storeData data :: .countFault :: .storeActive true :: rest, kd, v, o⟩ s
      = drive a (n + 3) ⟨.storeData data :: .countFault :: .storeActive true :: rest, kd, v, o⟩ (s.rlxStoreCode a code) :=
        run_op _ _ _ _ _ _ _ _ hb
    _ = drive a (n + 2) ⟨.countFault :: .storeActive true :: rest, kd, v, o⟩ ((s.rlxStoreCode a code).rlxStoreData a data) :=
        run_op _ _ _ _ _ _ _ _ hb
    _ = drive a (n + 1) ⟨.storeActive true :: rest, kd, v, o⟩ (((s.rlxStoreCode a code).rlxStoreData a data).fetchAddCount a) :=
        run_op _ _ _ _ _ _ _ _ hb
    _ = drive a n ⟨rest, kd, v, o⟩ (s.faultSet a code data) := run_op _ _ _ _ _ _ _ _ hb

theorem exec_fltSet {a b : Word64} {s : State} (hb : s.unlimited) (hadmits : s.admitsCommand (.fltSet a b)) :
    exec (.fltSet a b) s =
      .next ((s.faultSet s.issuer (operandCode a) (operandWord b)).respond s.issuer (okResponse .ok 0)) := by
  rw [exec_admitted s _ hadmits]
  exact congrArg _ ((run_faultSetNumberOps s.issuer 36 _ _ [] .ok 0 false s hb).trans (run_done _ _ _ _ _ _))

/-- The store of the flag carries a view that has the record: the same agent stored it before (20_memory.md R101). -/
theorem faultSet_publishes (s : State) (a : Agent) (code : BitVec 8) (data : Word32) :
    (s.faultSet a code data).active.rel.hasRecord (s.faultSet a code data) := by
  refine View.hasRecord_join_left _ (s := s.faultSet a code data) ?_
  simp only [State.fetchAddCount, State.rlxStoreData, State.rlxStoreCode, State.view_setView]
  exact ⟨le_max_of_le_left (le_max_of_le_left (le_max_right _ _)), le_max_of_le_left (le_max_right _ _), le_max_right _ _⟩

/-- A FLT_SET leaves the record it sets, and a flag that publishes it. -/
theorem fltSet_leaves {a b : Word64} {s t : State} (hb : s.unlimited) (hadmits : s.admitsCommand (.fltSet a b))
    (ht : exec (.fltSet a b) s = .next t) :
    t.active.rel.hasRecord t ∧ t.code.cur = operandCode a ∧ t.data.cur = operandWord b ∧ t.count.cur = s.count.cur + 1#32 := by
  rw [exec_fltSet hb hadmits] at ht
  cases ht
  exact ⟨faultSet_publishes s s.issuer (operandCode a) (operandWord b), rfl, rfl, rfl⟩

/-- A load of the latest flag takes over the view its store carries. -/
theorem acqLoadActive_hasRecord {s : State} (a : Agent) (hage : s.nextAge = 0) (h : s.active.rel.hasRecord s) :
    ((s.acqLoadActive a).2.view a).hasRecord s := by
  have hlatest : s.loadAge (s.view a).active s.active.top = 0 := by rw [State.loadAge, hage, Nat.zero_min]
  simp only [State.acqLoadActive, State.view_setView, hlatest]
  exact View.hasRecord_join_right _ h

/-- An FLT_ACTIVE that loads a flag that publishes the record leaves its agent with it. -/
theorem fltActive_leaves {s t : State} (hb : s.unlimited) (hage : s.nextAge = 0) (h : s.active.rel.hasRecord s)
    (ht : exec .fltActive s = .next t) :
    (t.view s.issuer).hasRecord t ∧ t.code = s.code ∧ t.data = s.data ∧ t.count = s.count := by
  rw [exec_fltActive hb] at ht
  cases ht
  rw [view_respond]
  obtain ⟨hcode, hdata, hcount⟩ := acqLoadActive_hasRecord s.issuer hage h
  exact ⟨⟨hcode, hdata, hcount⟩, rfl, rfl, rfl⟩

/-- An agent whose view has the record reads it, whatever ages its loads ask for (20_memory.md R105). -/
theorem observers_read_record {s : State} (hb : s.unlimited) (h : (s.view s.issuer).hasRecord s) :
    Ends s (exec .fltCode s) (okResponse .ok (s.code.cur.zeroExtend 64)) (fun _ => True) ∧
      Ends s (exec .fltData s) (okResponse .ok (s.data.cur.zeroExtend 64)) (fun _ => True) ∧
      Ends s (exec .fltCount s) (okResponse .ok (s.count.cur.zeroExtend 64)) (fun _ => True) := by
  obtain ⟨hcode, hdata, hcount⟩ := h
  rw [← State.rlxLoadCode_of_current s s.issuer (le_max_of_le_left hcode),
    ← State.rlxLoadData_of_current s s.issuer (le_max_of_le_left hdata),
    ← State.rlxLoadCount_of_current s s.issuer (le_max_of_le_left hcount)]
  exact ⟨ends_of_exec (exec_fltCode hb) trivial, ends_of_exec (exec_fltData hb) trivial, ends_of_exec (exec_fltCount hb) trivial⟩

/-- Settles O41: the flag's store carries the record (`fltSet_leaves`), its load takes it over (`fltActive_leaves`), and the observers
then read it (`observers_read_record`). -/
theorem faultFlagPublishesTheRecord : Obligations.FaultFlagPublishesTheRecord := by
  intro a b s t u first later hb hadmits hset hfirst hage hflag hagent hlater
  obtain ⟨hpublished, hcode, hdata, hcount⟩ := fltSet_leaves hb hadmits hset
  obtain ⟨hread, kcode, kdata, kcount⟩ := fltActive_leaves (s := { t with turn := first }) hfirst hage hpublished hflag
  have hrecord : (({ u with turn := later } : State).view later.agent).hasRecord { u with turn := later } := by
    rw [hagent]; exact hread
  rw [← hcode, ← hdata, ← hcount, ← (show u.code = t.code from kcode), ← (show u.data = t.data from kdata),
    ← (show u.count = t.count from kcount)]
  exact observers_read_record hlater hrecord

end Sys2Proof.Machine
end

section
/-!
PROOFS of O1 to O4: the decoder and the encoder (30_encoding.md R121, R126, R150, R151). The opcode byte of a header names at most one
row of the table, so the row the decoder finds is any row that accepts; and a row accepts exactly the header the encoder writes for
its command with the context nibble of that header.
-/

namespace Sys2Proof.Machine

/-! ### The fields of a header -/

/-- A field of a word as digits of its number. -/
theorem extractLsb'_eq_iff {w start len : Nat} (x : BitVec w) (y : BitVec len) :
    x.extractLsb' start len = y ↔ x.toNat / 2 ^ start % 2 ^ len = y.toNat := by
  rw [← BitVec.toNat_inj, BitVec.extractLsb'_toNat, Nat.shiftRight_eq_div_pow]

theorem headerCtx_toNat (h : Word32) : (headerCtx h).toNat = h.toNat / 256 % 16 :=
  ((extractLsb'_eq_iff h _).1 rfl).symm

/-- Concatenation is a sum. -/
theorem toNat_append_eq_add {m n : Nat} (x : BitVec m) (y : BitVec n) : (x ++ y).toNat = x.toNat * 2 ^ n + y.toNat := by
  rw [BitVec.toNat_append, ← Nat.shiftLeft_add_eq_or_of_lt y.isLt, Nat.shiftLeft_eq]

theorem consumerHeader_toNat (opc : BitVec 8) (k : CtxIdx) : (consumerHeader opc k).toNat = k.toNat * 256 + opc.toNat := by
  rw [consumerHeader, toNat_append_eq_add, toNat_append_eq_add, BitVec.toNat_zero]
  omega

theorem headerCtx_consumerHeader (opc : BitVec 8) (k : CtxIdx) : headerCtx (consumerHeader opc k) = k := by
  apply BitVec.eq_of_toNat_eq
  rw [headerCtx_toNat, consumerHeader_toNat]
  omega

/-- The mask of a consumer row clears the context nibble alone (30_encoding.md R150). -/
theorem and_consumerMask (h : Word32) : h &&& 0xFFFFF0FF#32 = h.extractLsb' 12 20 ++ 0#4 ++ h.extractLsb' 0 8 := by
  have hmask : ∀ i : Fin 32, (0xFFFFF0FF#32).getLsbD i = decide (i.val < 8 ∨ 12 ≤ i.val) := by decide
  apply BitVec.eq_of_getLsbD_eq
  intro i hi
  rw [BitVec.getLsbD_and, hmask ⟨i, hi⟩]
  simp only [BitVec.getLsbD_append, BitVec.getLsbD_extractLsb', BitVec.getLsbD_zero]
  by_cases hopc : i < 8
  · simp [hopc]
  by_cases hctx : i < 12
  · simp [hopc, show ¬ 12 ≤ i by omega, show i - 8 < 4 by omega]
  · simp [hopc, show 12 ≤ i by omega, show ¬ i - 8 < 4 by omega, show i - 8 - 4 < 20 by omega, show 12 + (i - 8 - 4) = i by omega]

theorem and_consumerMask_toNat (h : Word32) : (h &&& 0xFFFFF0FF#32).toNat = h.toNat / 2 ^ 12 * 2 ^ 12 + h.toNat % 256 := by
  rw [and_consumerMask]
  simp only [toNat_append_eq_add, BitVec.extractLsb'_toNat, Nat.shiftRight_eq_div_pow, BitVec.toNat_zero]
  omega

/-! ### The rows of the opcode table -/

theorem plainRow_mask_pattern : ∀ r ∈ plainRows, r.mask = 0xFFFFFFFF#32 ∧ r.pattern.toNat < 256 := by decide

theorem consumerRow_mask_pattern : ∀ r ∈ consumerRows, r.mask = 0xFFFFF0FF#32 ∧ r.pattern.toNat < 256 := by decide

/-- A plain row accepts the header that has its opcode and no other bit (30_encoding.md R150). -/
theorem plainRow_accepts_iff {r : OpcodeRow} (hr : r ∈ plainRows) (h : Word32) :
    r.accepts h = true ↔ h.toNat / 2 ^ 12 = 0 ∧ h.toNat % 256 = r.pattern.toNat ∧ h.toNat / 256 % 16 = 0 := by
  obtain ⟨hmask, hopc⟩ := plainRow_mask_pattern r hr
  have hall : h &&& 0xFFFFFFFF#32 = h := BitVec.and_allOnes
  rw [OpcodeRow.accepts, hmask, hall, beq_iff_eq, ← BitVec.toNat_inj]
  omega

/-- A consumer row accepts the headers that have its opcode and no reserved bit (30_encoding.md R150). -/
theorem consumerRow_accepts_iff {r : OpcodeRow} (hr : r ∈ consumerRows) (h : Word32) :
    r.accepts h = true ↔ h.toNat / 2 ^ 12 = 0 ∧ h.toNat % 256 = r.pattern.toNat := by
  obtain ⟨hmask, hopc⟩ := consumerRow_mask_pattern r hr
  rw [OpcodeRow.accepts, hmask, beq_iff_eq, ← BitVec.toNat_inj, and_consumerMask_toNat]
  omega

theorem exists_plainRow_iff (h : Word32) : (∃ r ∈ plainRows, r.accepts h = true) ↔
    h.toNat / 2 ^ 12 = 0 ∧ h.toNat % 256 ∈ plainOpcodes ∧ h.toNat / 256 % 16 = 0 := by
  have hopcodes : plainOpcodes = plainRows.map fun r => r.pattern.toNat := rfl
  rw [hopcodes, List.mem_map]
  constructor
  · rintro ⟨r, hr, haccepts⟩
    obtain ⟨hhigh, hopc, hctx⟩ := (plainRow_accepts_iff hr h).1 haccepts
    exact ⟨hhigh, ⟨r, hr, hopc.symm⟩, hctx⟩
  · rintro ⟨hhigh, ⟨r, hr, hopc⟩, hctx⟩
    exact ⟨r, hr, (plainRow_accepts_iff hr h).2 ⟨hhigh, hopc.symm, hctx⟩⟩

theorem exists_consumerRow_iff (h : Word32) : (∃ r ∈ consumerRows, r.accepts h = true) ↔
    h.toNat / 2 ^ 12 = 0 ∧ h.toNat % 256 ∈ consumerOpcodes := by
  have hopcodes : consumerOpcodes = consumerRows.map fun r => r.pattern.toNat := rfl
  rw [hopcodes, List.mem_map]
  constructor
  · rintro ⟨r, hr, haccepts⟩
    obtain ⟨hhigh, hopc⟩ := (consumerRow_accepts_iff hr h).1 haccepts
    exact ⟨hhigh, r, hr, hopc.symm⟩
  · rintro ⟨hhigh, r, hr, hopc⟩
    exact ⟨r, hr, (consumerRow_accepts_iff hr h).2 ⟨hhigh, hopc.symm⟩⟩

/-- A header that a row accepts has the opcode of the row. -/
theorem opcode_of_accepts {r : OpcodeRow} (hr : r ∈ opcodeRows) {h : Word32} (haccepts : r.accepts h = true) :
    h.toNat % 256 = r.pattern.toNat := by
  rcases List.mem_append.1 hr with hr | hr
  · obtain ⟨-, hopc, -⟩ := (plainRow_accepts_iff hr h).1 haccepts
    exact hopc
  · obtain ⟨-, hopc⟩ := (consumerRow_accepts_iff hr h).1 haccepts
    exact hopc

/-- No two rows have the same opcode, so at most one accepts a header. -/
theorem accepts_unique {r r' : OpcodeRow} (hr : r ∈ opcodeRows) (hr' : r' ∈ opcodeRows) {h : Word32}
    (haccepts : r.accepts h = true) (haccepts' : r'.accepts h = true) : r = r' := by
  have hnodup : (opcodeRows.map fun r => r.pattern.toNat).Nodup := by decide
  exact List.inj_on_of_nodup_map hnodup hr hr' ((opcode_of_accepts hr haccepts).symm.trans (opcode_of_accepts hr' haccepts'))

/-- The decoder gives the command of the row that accepts the header. -/
theorem decode_eq_ok_iff (c : Command) (i : Instr) :
    decode c = .ok i ↔ ∃ r ∈ opcodeRows, r.accepts c.h = true ∧ r.op.instr (headerCtx c.h) c.a c.b = i := by
  unfold decode
  cases hfind : opcodeRows.find? fun r => r.accepts c.h with
  | none =>
    have hnone := List.find?_eq_none.1 hfind
    exact ⟨nofun, fun ⟨r, hr, haccepts, _⟩ => absurd haccepts (hnone r hr)⟩
  | some r =>
    have hr := List.mem_of_find?_eq_some hfind
    have haccepts := List.find?_some hfind
    constructor
    · intro h
      cases h
      exact ⟨r, hr, haccepts, rfl⟩
    · rintro ⟨r', hr', haccepts', rfl⟩
      rw [accepts_unique hr hr' haccepts haccepts']

/-! ### What the encoder writes -/

theorem exists_opcode (i : Instr) : ∃ (op : Opcode) (k : CtxIdx) (a b : Word64), op.instr k a b = i := by
  cases i with
  | strmInit => exact ⟨.strmInit, 0, 0, 0, rfl⟩
  | push a => exact ⟨.push, 0, a, 0, rfl⟩
  | pushRaw a => exact ⟨.pushRaw, 0, a, 0, rfl⟩
  | flush => exact ⟨.flush, 0, 0, 0, rfl⟩
  | read a => exact ⟨.read, 0, a, 0, rfl⟩
  | wpos => exact ⟨.wpos, 0, 0, 0, rfl⟩
  | lag a => exact ⟨.lag, 0, a, 0, rfl⟩
  | overrun a => exact ⟨.overrun, 0, a, 0, rfl⟩
  | hrtInit k a => exact ⟨.hrtInit, k, a, 0, rfl⟩
  | hrtTick k => exact ⟨.hrtTick, k, 0, 0, rfl⟩
  | hrtResync k => exact ⟨.hrtResync, k, 0, 0, rfl⟩
  | beInit k a b => exact ⟨.beInit, k, a, b, rfl⟩
  | beTick k => exact ⟨.beTick, k, 0, 0, rfl⟩
  | beDropped k => exact ⟨.beDropped, k, 0, 0, rfl⟩
  | fltSet a b => exact ⟨.fltSet, 0, a, b, rfl⟩
  | fltClear => exact ⟨.fltClear, 0, 0, 0, rfl⟩
  | fltActive => exact ⟨.fltActive, 0, 0, 0, rfl⟩
  | fltCode => exact ⟨.fltCode, 0, 0, 0, rfl⟩
  | fltData => exact ⟨.fltData, 0, 0, 0, rfl⟩
  | fltCount => exact ⟨.fltCount, 0, 0, 0, rfl⟩
  | iamCfg a => exact ⟨.iamCfg, 0, a, 0, rfl⟩
  | iamTick a b => exact ⟨.iamTick, 0, a, b, rfl⟩
  | prodTick a b => exact ⟨.prodTick, 0, a, b, rfl⟩

/-- Every command is the command of a row. -/
theorem exists_row (i : Instr) : ∃ r ∈ opcodeRows, ∃ k a b, r.op.instr k a b = i := by
  have hrow : ∀ op : Opcode, ∃ r ∈ opcodeRows, r.op = op := by intro op; cases op <;> decide
  obtain ⟨op, k, a, b, rfl⟩ := exists_opcode i
  obtain ⟨r, hr, rfl⟩ := hrow op
  exact ⟨r, hr, k, a, b, rfl⟩

theorem encode_plainRow {r : OpcodeRow} (hr : r ∈ plainRows) (k : CtxIdx) (a b : Word64) :
    (encode (r.op.instr k a b)).h = r.pattern := by
  revert r
  simp [plainRows, Opcode.instr, encode]

theorem encode_consumerRow {r : OpcodeRow} (hr : r ∈ consumerRows) (k : CtxIdx) (a b : Word64) :
    (encode (r.op.instr k a b)).h = consumerHeader (r.pattern.setWidth 8) k := by
  revert r
  simp [consumerRows, Opcode.instr, encode]

/-- A row accepts exactly the header that the encoder writes for its command with the header's own context nibble. -/
theorem accepts_iff_encode {r : OpcodeRow} (hr : r ∈ opcodeRows) (h : Word32) (a b : Word64) :
    r.accepts h = true ↔ (encode (r.op.instr (headerCtx h) a b)).h = h := by
  rcases List.mem_append.1 hr with hr | hr
  · obtain ⟨-, hopc⟩ := plainRow_mask_pattern r hr
    rw [plainRow_accepts_iff hr, encode_plainRow hr, ← BitVec.toNat_inj]
    omega
  · obtain ⟨-, hopc⟩ := consumerRow_mask_pattern r hr
    rw [consumerRow_accepts_iff hr, encode_consumerRow hr, ← BitVec.toNat_inj, consumerHeader_toNat, headerCtx_toNat,
      BitVec.toNat_setWidth]
    omega

/-- The context nibble of an encoded command is the context the command names, where it names one. -/
theorem instr_headerCtx_encode (op : Opcode) (k : CtxIdx) (a b x y : Word64) :
    op.instr (headerCtx (encode (op.instr k a b)).h) x y = op.instr k x y := by
  cases op with
  | hrtInit | hrtTick | hrtResync | beInit | beTick | beDropped =>
    simp only [Opcode.instr, encode, headerCtx_consumerHeader]
  | _ => rfl

/-- The operand words of an encoded command are the ones the command holds. -/
theorem instr_encode_words (op : Opcode) (k : CtxIdx) (a b : Word64) :
    op.instr k (encode (op.instr k a b)).a (encode (op.instr k a b)).b = op.instr k a b := by
  cases op <;> rfl

/-- The encoder keeps every operand word that the command uses (30_encoding.md R145). -/
theorem encode_words (op : Opcode) (k : CtxIdx) (a b : Word64) :
    (usesWordA (op.instr k a b) = true → (encode (op.instr k a b)).a = a) ∧
      (usesWordB (op.instr k a b) = true → (encode (op.instr k a b)).b = b) := by
  cases op <;> exact ⟨by simp [Opcode.instr, usesWordA, encode], by simp [Opcode.instr, usesWordB, encode]⟩

/-! ### O1 to O4 -/

/-- Settles O1: the row of the command accepts the encoded header, which gives the context back, and the words are the command's. -/
theorem decodeOfEncodeIsTheCommand : Obligations.DecodeOfEncodeIsTheCommand := by
  intro i
  obtain ⟨r, hr, k, a, b, rfl⟩ := exists_row i
  have haccepts : r.accepts (encode (r.op.instr k a b)).h = true := by
    rw [accepts_iff_encode hr _ a b, instr_headerCtx_encode]
  exact (decode_eq_ok_iff _ _).2 ⟨r, hr, haccepts, (instr_headerCtx_encode _ _ _ _ _ _).trans (instr_encode_words _ _ _ _)⟩

/-- Settles O2: the row that accepted the header writes it again. -/
theorem encodeOfDecodeKeepsEveryUsedBit : Obligations.EncodeOfDecodeKeepsEveryUsedBit := by
  intro c i h
  obtain ⟨r, hr, haccepts, rfl⟩ := (decode_eq_ok_iff c i).1 h
  exact ⟨(accepts_iff_encode hr c.h c.a c.b).1 haccepts, encode_words _ _ _ _⟩

/-- Settles O3: the opcodes of the two halves of the table are the two lists of R404. -/
theorem decoderAcceptsExactlyTheLegalHeaders : Obligations.DecoderAcceptsExactlyTheLegalHeaders := by
  intro c
  calc (∃ i, decode c = .ok i)
      ↔ ∃ r ∈ opcodeRows, r.accepts c.h = true := by simp [decode_eq_ok_iff]
    _ ↔ (∃ r ∈ plainRows, r.accepts c.h = true) ∨ ∃ r ∈ consumerRows, r.accepts c.h = true := by
      simp only [opcodeRows, List.mem_append, or_and_right, exists_or]
    _ ↔ legalHeader c.h := by
      rw [exists_plainRow_iff, exists_consumerRow_iff, legalHeader, and_or_left, or_comm]

/-- Settles O4: the decoder runs on each of the six headers. -/
theorem writtenHeadersDecode : Obligations.WrittenHeadersDecode :=
  ⟨by decide, by decide, by decide, by decide, by decide, by decide⟩

end Sys2Proof.Machine
end

section
/-!
PROOFS of O22 (what PUSH writes and what a marker holds: 30_encoding.md R137; 40_stream.md R204, R205) and O43 (IAM_CFG: 44_iambic.md
R301; 30_encoding.md R140).
-/

namespace Sys2Proof.Machine

/-- A bit of a word as a digit of its number. -/
theorem getLsbD_iff {w : Nat} (a : BitVec w) (i : Nat) : a.getLsbD i = true ↔ a.toNat / 2 ^ i % 2 = 1 := by
  rw [BitVec.getLsbD, Nat.testBit_eq_decide_div_mod_eq, decide_eq_true_eq]

/-! ### The fields of a sample made of fields (30_encoding.md R130) -/

section
variable (payload : BitVec 16) (flags audio : BitVec 8) (key : Bool) (paddles : Paddles)

/-- A sample as the sum of its fields, each at its place. -/
theorem sampleOf_toNat : (sampleOf payload flags audio key paddles).toNat =
    payload.toNat * 2 ^ 32 + flags.toNat * 2 ^ 24 + audio.toNat * 2 ^ 16 + key.toNat * 2 ^ 8 + paddles.toNat := by
  simp only [sampleOf, toNat_append_eq_add, BitVec.toNat_zero, BitVec.toNat_ofBool]
  omega

theorem samplePaddles_sampleOf : samplePaddles (sampleOf payload flags audio key paddles) = paddles := by
  rw [samplePaddles, extractLsb'_eq_iff, sampleOf_toNat]
  omega

theorem sampleKey_sampleOf : sampleKey (sampleOf payload flags audio key paddles) = key := by
  rw [Bool.eq_iff_iff, sampleKey, getLsbD_iff, sampleOf_toNat, ← Bool.toNat_eq_one]
  have hkey := key.toNat_le
  omega

theorem sampleAudio_sampleOf : sampleAudio (sampleOf payload flags audio key paddles) = audio := by
  rw [sampleAudio, extractLsb'_eq_iff, sampleOf_toNat]
  have hkey := key.toNat_le
  omega

theorem sampleFlags_sampleOf : sampleFlags (sampleOf payload flags audio key paddles) = flags := by
  rw [sampleFlags, extractLsb'_eq_iff, sampleOf_toNat]
  have hkey := key.toNat_le
  omega

theorem samplePayload_sampleOf : samplePayload (sampleOf payload flags audio key paddles) = payload := by
  rw [samplePayload, extractLsb'_eq_iff, sampleOf_toNat]
  have hkey := key.toNat_le
  omega

end

/-! ### O22 -/

/-- The edge bits of an annotated sample are the edge flags (40_stream.md R204, R205). -/
theorem annotate_edges (s l : Sample) :
    (annotate s l).getLsbD 24 = (edgeFlags s l).1 ∧ (annotate s l).getLsbD 25 = (edgeFlags s l).2 := by
  simp only [annotate, BitVec.getLsbD_append]
  constructor <;> simp

/-- Settles O22: a sample by its bits, a marker by the fields it is made of. -/
theorem annotatedSamplesAndMarkersAreAsSpecified : Obligations.AnnotatedSamplesAndMarkersAreAsSpecified := by
  refine ⟨fun s l => ?_, fun n => ?_⟩
  · obtain ⟨hgpio, hkey⟩ := annotate_edges s l
    exact ⟨by rw [hgpio]; exact bne_iff_ne, by rw [hkey]; exact bne_iff_ne, annotate_silence s l,
      fun n hn h24 h25 h26 => getLsbD_annotate (by omega)⟩
  · exact ⟨samplePaddles_sampleOf _ _ _ _ _, sampleKey_sampleOf _ _ _ _ _, sampleAudio_sampleOf _ _ _ _ _,
      sampleFlags_sampleOf _ _ _ _ _, samplePayload_sampleOf _ _ _ _ _, marker_reservedClear n⟩

/-! ### O43 -/

/-- An admitted IAM_CFG stores its configuration and answers OK: it has no micro-step. -/
theorem exec_iamCfg {a : Word64} {s : State} (hadmits : s.admitsCommand (.iamCfg a)) :
    exec (.iamCfg a) s =
      .next (({ s with fsm := { s.fsm with cfg := operandConfig a } } : State).respond s.issuer (okResponse .ok 0)) := by
  rw [exec_admitted s _ hadmits]
  exact congrArg _ (run_done _ _ _ _ _ _)

/-- The four fields of the configuration word (30_encoding.md R140). -/
theorem operandConfig_fields (a : Word64) :
    (operandConfig a).wpm.toNat = a.toNat % 256 ∧ ((operandConfig a).modeB = true ↔ a.toNat / 256 % 2 = 1) ∧
      ((operandConfig a).ditMemEn = true ↔ a.toNat / 512 % 2 = 1) ∧ ((operandConfig a).dahMemEn = true ↔ a.toNat / 1024 % 2 = 1) :=
  ⟨BitVec.extractLsb'_toNat _ _ _, getLsbD_iff a 8, getLsbD_iff a 9, getLsbD_iff a 10⟩

/-- Settles O43: the command stores `operandConfig a`, whose fields are those of R140. -/
theorem iamCfgWritesTheConfiguration : Obligations.IamCfgWritesTheConfiguration := by
  intro a s _ hadmits
  have hexec := exec_iamCfg hadmits
  obtain ⟨hwpm, hmode, hdit, hdah⟩ := operandConfig_fields a
  exact ends_of_exec hexec ⟨rfl, hwpm, hmode, hdit, hdah, ⟨rfl, rfl, rfl, rfl, rfl⟩, ⟨rfl, rfl, rfl, rfl⟩, rfl, rfl,
    sameOutside_of_exec (i := .iamCfg a) nofun hexec, rfl⟩

end Sys2Proof.Machine
end

section
/-!
PROOFS of O11 to O15, O18 and O21: the commands of the Keying Stream (40_stream.md). Each command's run is one equation for the state it
answers in; `Wrote` says what such a state holds, and composes, so that the round trip of O21 is three pushes put together.
-/

namespace Sys2Proof.Machine

/-! ### O18: the position queries -/

section
variable {s : State} (hb : s.unlimited)
include hb

theorem exec_lag {a : Word64} (hwf : (Instr.lag a).wellFormed = true) : exec (.lag a) s =
    .next ((s.acqLoadW s.issuer).2.respond s.issuer
      (okResponse .ok (((s.acqLoadW s.issuer).1 - operandWord a).zeroExtend 64))) :=
  exec_oneEntry hb ⟨trivial, id, id, hwf, id⟩ rfl rfl

theorem exec_overrun {a : Word64} (hwf : (Instr.overrun a).wellFormed = true) : exec (.overrun a) s =
    .next ((s.acqLoadW s.issuer).2.respond s.issuer
      (okResponse .ok (if s.params.cap < (s.acqLoadW s.issuer).1 - operandWord a then 1#64 else 0#64))) :=
  exec_oneEntry hb ⟨trivial, id, id, hwf, id⟩ rfl rfl

end

/-- An observer that answers without a draw has changed only its agent's port. -/
theorem observer_ends {i : Instr} {s u : State} {v : Word64} (hi : IsObserver i)
    (hexec : exec i s = .next (u.respond s.issuer (okResponse .ok v))) (hdraws : u.draws = s.draws) :
    Ends s (exec i s) (okResponse .ok v) (SameButPort s) :=
  ends_of_exec hexec ⟨sameBlock_of_runs hi (.inl ⟨rfl, hexec⟩), sameOutside_of_exec hi.ne_strmInit hexec, hdraws⟩

/-- Settles O18: each query is one load of W. -/
theorem positionQueriesAnswerFromW : Obligations.PositionQueriesAnswerFromW := by
  rintro a s w hb ⟨rfl, -⟩
  refine ⟨?_, fun hwf => ?_, fun hwf => ?_⟩
  · exact observer_ends (observes_of_mem (a := a) (by simp)) (exec_wpos hb) rfl
  · exact observer_ends (observes_of_mem (a := a) (by simp)) (exec_lag hb hwf) rfl
  · simp only [← Params.cap_lt_iff]
    exact observer_ends (observes_of_mem (a := a) (by simp)) (exec_overrun hb hwf) rfl

/-! ### O11: STRM_INIT -/

/-- The block after a whole STRM_INIT of agent `a`: the stream is zeroed, the store of W publishes that, and both micro-steps mark the
commands in progress (40_stream.md R200; 20_memory.md R112). -/
def State.strmInited (s : State) (a : Agent) : State := (s.zeroStream.markOverlapped.relStoreW a 0#32).markOverlapped

theorem exec_strmInit {s : State} (hb : s.unlimited) (hissuer : s.issuer = .producer) :
    exec .strmInit s = .next ((s.strmInited s.issuer).respond s.issuer (okResponse .ok 0)) := by
  have hrun : drive s.issuer sliceFuel ⟨[.strmZero, .strmPublish], .ok, 0, false⟩ s =
      (s.strmInited s.issuer).respond s.issuer (okResponse .ok 0) :=
    calc drive s.issuer sliceFuel ⟨[.strmZero, .strmPublish], .ok, 0, false⟩ s
        = drive s.issuer 39 ⟨[.strmPublish], .ok, 0, false⟩ s.zeroStream.markOverlapped := run_op _ _ _ _ _ _ _ _ hb
      _ = drive s.issuer 38 ⟨[], .ok, 0, false⟩ (s.strmInited s.issuer) := run_op _ _ _ _ _ _ _ _ hb
      _ = (s.strmInited s.issuer).respond s.issuer (okResponse .ok 0) := run_done _ _ _ _ _ _
  rw [exec_admitted s .strmInit ⟨hissuer, id, id, rfl, id⟩]
  exact congrArg _ hrun

/-- Every other agent's port is marked, which marking it twice does not change. -/
theorem port_strmInited_other (s : State) {a b : Agent} (h : b ≠ a) : (s.strmInited a).port b =
    { s.port b with thread := (s.port b).thread.map fun th => { th with overlapped := true } } := by
  have hstore : (s.zeroStream.markOverlapped.relStoreW a 0#32).port b = s.zeroStream.markOverlapped.port b :=
    State.port_setView_other _ _ h
  have hzero : s.zeroStream.port b = s.port b := rfl
  simp only [State.strmInited, port_markOverlapped, hstore, hzero, Option.map_map]
  rfl

/-- Settles O11. -/
theorem strmInitZeroesTheStream : Obligations.StrmInitZeroesTheStream := by
  intro s hb hissuer
  refine ends_of_exec (exec_strmInit hb hissuer) ⟨fun _ => rfl, rfl, rfl, rfl, rfl, ⟨rfl, rfl, rfl, rfl⟩, rfl, rfl, rfl, rfl, rfl, rfl,
    fun b hother => ?_⟩
  have hport := (State.port_respond_other _ (okResponse .ok 0) hother).trans (port_strmInited_other s hother)
  rw [hport]
  exact ⟨rfl, rfl, rfl⟩

/-! ### What slot writes leave alone -/

/-- `u` differs from `s` at most in the stream and in agent `a`'s port. -/
structure StreamOnly (a : Agent) (s u : State) : Prop where
  fault : SameFault s u
  ctxs : u.ctxs = s.ctxs
  fsm : u.fsm = s.fsm
  outLatch : u.outLatch = s.outLatch
  params : u.params = s.params
  inboxes : u.inboxes = s.inboxes
  turns : u.turns = s.turns
  turn : u.turn = s.turn
  draws : u.draws = s.draws
  port : ∀ b, b ≠ a → u.port b = s.port b

namespace StreamOnly

variable {a : Agent} {s u t : State}

theorem refl : StreamOnly a s s := ⟨⟨rfl, rfl, rfl, rfl⟩, rfl, rfl, rfl, rfl, rfl, rfl, rfl, rfl, fun _ _ => rfl⟩

theorem trans (h : StreamOnly a s u) (k : StreamOnly a u t) : StreamOnly a s t where
  fault := by
    obtain ⟨h1, h2, h3, h4⟩ := h.fault
    obtain ⟨k1, k2, k3, k4⟩ := k.fault
    exact ⟨k1.trans h1, k2.trans h2, k3.trans h3, k4.trans h4⟩
  ctxs := k.ctxs.trans h.ctxs
  fsm := k.fsm.trans h.fsm
  outLatch := k.outLatch.trans h.outLatch
  params := k.params.trans h.params
  inboxes := k.inboxes.trans h.inboxes
  turns := k.turns.trans h.turns
  turn := k.turn.trans h.turn
  draws := k.draws.trans h.draws
  port b hb := (k.port b hb).trans (h.port b hb)

theorem setIdleCnt (h : StreamOnly a s u) (n : BitVec 16) : StreamOnly a s { u with idleCnt := n } :=
  ⟨h.fault, h.ctxs, h.fsm, h.outLatch, h.params, h.inboxes, h.turns, h.turn, h.draws, h.port⟩

theorem setLast (h : StreamOnly a s u) (x : Sample) : StreamOnly a s { u with last := x } :=
  ⟨h.fault, h.ctxs, h.fsm, h.outLatch, h.params, h.inboxes, h.turns, h.turn, h.draws, h.port⟩

theorem respond (h : StreamOnly a s u) (r : Response) : StreamOnly a s (u.respond a r) :=
  h.trans ⟨⟨rfl, rfl, rfl, rfl⟩, rfl, rfl, rfl, rfl, rfl, rfl, rfl, rfl, fun _ hb => State.port_respond_other u r hb⟩

theorem wroteOne (h : StreamOnly a s u) (v : Sample) : StreamOnly a s (wroteOne a v u) :=
  h.trans ⟨⟨rfl, rfl, rfl, rfl⟩, rfl, rfl, rfl, rfl, rfl, rfl, rfl, rfl, fun _ hb => State.port_setView_other _ _ hb⟩

theorem issuer_eq (h : StreamOnly a s u) : u.issuer = s.issuer := congrArg Slice.agent h.turn

theorem unlimited (h : StreamOnly a s u) (hb : s.unlimited) : u.unlimited := (congrArg Slice.budget h.turn).trans hb

theorem sameButStream (h : StreamOnly s.issuer s u) : SameButStream s u :=
  ⟨h.fault, h.ctxs, h.fsm, h.outLatch, ⟨h.params, h.inboxes, h.turns, h.port⟩, h.draws⟩

end StreamOnly

/-! ### Slot writes one after the other -/

/-- The samples `vs` and then the samples `us`: a slot that both reach holds the later one. -/
theorem WroteSlots.append {vs us : List Sample} {s t u : State} (hparams : t.params = s.params) (h : WroteSlots vs s t)
    (k : WroteSlots us t u) : WroteSlots (vs ++ us) s u := by
  obtain ⟨hcur, hpast, hpw, hpwNil, hslot, hkept⟩ := h
  obtain ⟨kcur, kpast, kpw, kpwNil, kslot, kkept⟩ := k
  have hindex : ∀ m, t.w.cur + BitVec.ofNat 32 m = s.w.cur + BitVec.ofNat 32 (vs.length + m) := fun m => by
    rw [hcur, BitVec.ofNat_add, BitVec.add_assoc]
  have hslotOf : ∀ i, t.slotOf i = s.slotOf i := State.slotOf_congr hparams
  simp only [hindex, hslotOf] at kcur kpast kslot kkept
  refine ⟨by rw [kcur, List.length_append], ?_, fun hne => ?_, fun hnil => ?_, fun m v hm hlast => ?_, fun n hn => ?_⟩
  · rw [kpast, hpast, List.length_append, List.range_add, List.map_append, List.reverse_append, List.append_assoc, List.map_map]
    rfl
  · by_cases hus : us = []
    · subst hus
      rw [kpwNil rfl, hpw (by simpa using hne), kcur, hcur, List.length_nil, Nat.add_zero]
    · exact kpw hus
  · obtain ⟨rfl, rfl⟩ := List.append_eq_nil_iff.1 hnil
    rw [kpwNil rfl, hpwNil rfl]
  · rw [List.length_append] at hlast
    by_cases hlow : m < vs.length
    · rw [List.getElem?_append_left hlow] at hm
      rw [kkept _ fun j hj => (hlast (vs.length + j) (by omega) (by omega)).symm]
      exact hslot m v hm fun j hj hlt => hlast j hj (by omega)
    · obtain ⟨j, rfl⟩ := Nat.exists_eq_add_of_le (not_lt.1 hlow)
      rw [List.getElem?_append_right (Nat.le_add_right _ _), Nat.add_sub_cancel_left] at hm
      exact kslot j v hm fun i hi hlt => hlast (vs.length + i) (by omega) (by omega)
  · rw [List.length_append] at hn
    rw [kkept n fun j hj => hn _ (by omega), hkept n fun j hj => hn j (by omega)]

/-- A command of the issuer has written the samples `vs` and changed nothing outside the stream but its port. -/
structure Wrote (vs : List Sample) (s t : State) : Prop where
  slots : WroteSlots vs s t
  only : StreamOnly s.issuer s t

namespace Wrote

variable {vs us : List Sample} {s t u : State}

theorem refl : Wrote [] s s := ⟨wrote_nil s s rfl rfl rfl, StreamOnly.refl⟩

theorem append (h : Wrote vs s t) (k : Wrote us t u) : Wrote (vs ++ us) s u :=
  ⟨h.slots.append h.only.params k.slots, h.only.trans (h.only.issuer_eq ▸ k.only)⟩

theorem setIdleCnt (h : Wrote vs s t) (n : BitVec 16) : Wrote vs s { t with idleCnt := n } :=
  ⟨wrote_congr vs s t _ h.slots rfl rfl rfl, h.only.setIdleCnt n⟩

theorem setLast (h : Wrote vs s t) (x : Sample) : Wrote vs s { t with last := x } :=
  ⟨wrote_congr vs s t _ h.slots rfl rfl rfl, h.only.setLast x⟩

theorem respond (h : Wrote vs s t) (r : Response) : Wrote vs s (t.respond s.issuer r) :=
  ⟨wrote_congr vs s t _ h.slots rfl rfl rfl, h.only.respond r⟩

theorem wroteOne (h : Wrote vs s t) (v : Sample) : Wrote (vs ++ [v]) s (wroteOne s.issuer v t) :=
  ⟨wroteOne_wrote vs v s.issuer s t h.slots h.only.params, h.only.wroteOne v⟩

end Wrote

/-! ### O14: PUSH_RAW -/

theorem exec_pushRaw {a : Word64} {s : State} (hb : s.unlimited) (hissuer : s.issuer = .producer)
    (hwf : (Instr.pushRaw a).wellFormed = true) :
    exec (.pushRaw a) s = .next ((wroteOne s.issuer (operandSample a) s).respond s.issuer (okResponse .ok 1)) := by
  rw [exec_admitted s (.pushRaw a) ⟨hissuer, id, id, hwf, id⟩]
  exact congrArg _ ((run_writeSlot s.issuer 37 _ [] .ok 1 false s hb).trans (run_done _ _ _ _ _ _))

/-- Settles O14. -/
theorem pushRawWritesVerbatim : Obligations.PushRawWritesVerbatim := by
  intro a s hb hissuer hwf
  have hwrote := (Wrote.refl (s := s)).wroteOne (operandSample a) |>.respond (okResponse .ok 1)
  exact ends_of_exec (exec_pushRaw hb hissuer hwf) ⟨hwrote.slots, rfl, rfl, hwrote.only.sameButStream⟩

/-! ### O15: FLUSH -/

/-- The block after a whole `FlushPending()` of agent `a` (40_stream.md R203). -/
def State.flushed (s : State) (a : Agent) : State :=
  if s.idleCnt = 0 then s else { wroteOne a (marker s.idleCnt) s with idleCnt := 0 }

theorem flushed_of_none {s : State} (a : Agent) (h : s.idleCnt = 0) : s.flushed a = s := if_pos h

theorem flushed_of_pending {s : State} (a : Agent) (h : s.idleCnt ≠ 0) :
    s.flushed a = { wroteOne a (marker s.idleCnt) s with idleCnt := 0 } := if_neg h

theorem pendingMarker_of_none {s : State} (h : s.idleCnt = 0) : pendingMarker s = [] := if_pos h

theorem pendingMarker_of_pending {s : State} (h : s.idleCnt ≠ 0) : pendingMarker s = [marker s.idleCnt] := if_neg h

/-- The flush has written the pending marker. -/
theorem flushed_wrote (s : State) : Wrote (pendingMarker s) s (s.flushed s.issuer) := by
  by_cases h : s.idleCnt = 0
  · rw [pendingMarker_of_none h, flushed_of_none _ h]
    exact Wrote.refl
  · rw [pendingMarker_of_pending h, flushed_of_pending _ h]
    exact (Wrote.refl.wroteOne _).setIdleCnt 0

theorem flushed_idleCnt (s : State) (a : Agent) : (s.flushed a).idleCnt = 0 := by
  by_cases h : s.idleCnt = 0
  · rw [flushed_of_none a h, h]
  · rw [flushed_of_pending a h]

theorem flushed_last (s : State) (a : Agent) : (s.flushed a).last = s.last := by
  by_cases h : s.idleCnt = 0
  · rw [flushed_of_none a h]
  · rw [flushed_of_pending a h]; rfl

/-- The entries of a flush whose agent is not switched out are that state, with fuel for what comes after them. -/
theorem run_flushPendingOps {a : Agent} {n : Nat} {rest : List Op} {kd : Kind} {v : Word64} {o : Bool} {s : State}
    (hb : s.unlimited) (hn : opsWeight rest < n) :
    drive a (n + 4) ⟨flushPendingOps s.idleCnt ++ rest, kd, v, o⟩ s = drive a n ⟨rest, kd, v, o⟩ (s.flushed a) := by
  by_cases h : s.idleCnt = 0
  · have hops : flushPendingOps s.idleCnt = [] := if_pos h
    rw [flushed_of_none a h, hops, List.nil_append]
    exact drive_fuel a _ _ _ _ (Nat.lt_add_right 4 hn) hn
  · have hops : flushPendingOps s.idleCnt = writeSlotOps (marker s.idleCnt) ++ [.clearIdle] := if_neg h
    rw [flushed_of_pending a h, hops, List.append_assoc]
    exact (run_writeSlot a (n + 1) _ _ kd v o s hb).trans (run_op _ _ _ _ _ _ _ _ hb)

theorem exec_flush {s : State} (hb : s.unlimited) (hissuer : s.issuer = .producer) :
    exec .flush s = .next ((s.flushed s.issuer).respond s.issuer (okResponse .ok 0)) := by
  have hrun := run_flushPendingOps (a := s.issuer) (n := 36) (rest := []) (kd := .ok) (v := 0) (o := false) hb (by simp)
  rw [List.append_nil] at hrun
  rw [exec_admitted s .flush ⟨hissuer, id, id, rfl, id⟩]
  exact congrArg _ (hrun.trans (run_done _ _ _ _ _ _))

/-- Settles O15. -/
theorem flushWritesThePendingMarker : Obligations.FlushWritesThePendingMarker := by
  intro s hb hissuer
  have hwrote := (flushed_wrote s).respond (okResponse .ok 0)
  exact ends_of_exec (exec_flush hb hissuer)
    ⟨hwrote.slots, flushed_idleCnt s _, flushed_last s _, hwrote.only.sameButStream⟩

/-! ### O12 and O13: PUSH -/

/-- The block after a whole PUSH of agent `a` that writes the sample `v` (40_stream.md R207). -/
def State.pushed (s : State) (a : Agent) (v : Sample) : State := { wroteOne a v (s.flushed a) with last := v }

theorem exec_push_unchanged {a : Word64} {s : State} (hissuer : s.issuer = .producer) (hwf : (Instr.push a).wellFormed = true)
    (h : sameSample (operandSample a) s.last = true) :
    exec (.push a) s = .next (s.countIdle.respond s.issuer (okResponse .ok 1)) := by
  have hbody : bodyOf s (.push a) = (⟨[], .ok, 1, false⟩, s.countIdle) := by
    simp only [bodyOf, State.pushBody, if_pos h]; rfl
  rw [exec_admitted s (.push a) ⟨hissuer, id, id, hwf, id⟩, hbody]
  exact congrArg _ (run_done _ _ _ _ _ _)

theorem exec_push_changed {a : Word64} {s : State} (hb : s.unlimited) (hissuer : s.issuer = .producer)
    (hwf : (Instr.push a).wellFormed = true) (h : sameSample (operandSample a) s.last = false) :
    exec (.push a) s =
      .next ((s.pushed s.issuer (annotate (operandSample a) s.last)).respond s.issuer (okResponse .ok 1)) := by
  generalize hv : annotate (operandSample a) s.last = v
  have hbody : bodyOf s (.push a) = (⟨flushPendingOps s.idleCnt ++ (writeSlotOps v ++ [.setLast v]), .ok, 1, false⟩, s) := by
    simp only [bodyOf, State.pushBody, h, hv, List.append_assoc]; rfl
  have hflushed : (s.flushed s.issuer).unlimited := (flushed_wrote s).only.unlimited hb
  have hrun : drive s.issuer sliceFuel ⟨flushPendingOps s.idleCnt ++ (writeSlotOps v ++ [.setLast v]), .ok, 1, false⟩ s =
      (s.pushed s.issuer v).respond s.issuer (okResponse .ok 1) :=
    calc drive s.issuer sliceFuel ⟨flushPendingOps s.idleCnt ++ (writeSlotOps v ++ [.setLast v]), .ok, 1, false⟩ s
        = drive s.issuer 36 ⟨writeSlotOps v ++ [.setLast v], .ok, 1, false⟩ (s.flushed s.issuer) :=
          run_flushPendingOps hb (by simp [writeSlotOps, opWeight])
      _ = drive s.issuer 33 ⟨[.setLast v], .ok, 1, false⟩ (wroteOne s.issuer v (s.flushed s.issuer)) :=
          run_writeSlot _ _ _ _ _ _ _ _ hflushed
      _ = drive s.issuer 32 ⟨[], .ok, 1, false⟩ (s.pushed s.issuer v) := run_op _ _ _ _ _ _ _ _ hflushed
      _ = (s.pushed s.issuer v).respond s.issuer (okResponse .ok 1) := run_done _ _ _ _ _ _
  rw [exec_admitted s (.push a) ⟨hissuer, id, id, hwf, id⟩, hbody]
  exact congrArg _ hrun

/-- A push of an unchanged sample counts one tick and writes no slot. -/
theorem push_unchanged_ends {a : Word64} {s : State} (hissuer : s.issuer = .producer) (hwf : (Instr.push a).wellFormed = true)
    (h : sameSample (operandSample a) s.last = true) :
    Ends s (exec (.push a) s) (okResponse .ok 1) fun t => t.idleCnt.toNat = min (s.idleCnt.toNat + 1) 65535 ∧ Wrote [] s t ∧
      t.w = s.w ∧ t.slots = s.slots ∧ t.last = s.last :=
  ends_of_exec (exec_push_unchanged hissuer hwf h)
    ⟨satInc16_toNat s.idleCnt, (Wrote.refl.setIdleCnt (satInc16 s.idleCnt)).respond _, rfl, rfl, rfl⟩

/-- A push of a changed sample writes the pending marker and the annotated sample, which it remembers. -/
theorem push_changed_ends {a : Word64} {s : State} (hb : s.unlimited) (hissuer : s.issuer = .producer)
    (hwf : (Instr.push a).wellFormed = true) (h : sameSample (operandSample a) s.last = false) :
    Ends s (exec (.push a) s) (okResponse .ok 1) fun t =>
      Wrote (pendingMarker s ++ [annotate (operandSample a) s.last]) s t ∧ t.idleCnt = 0 ∧
        t.last = annotate (operandSample a) s.last :=
  ends_of_exec (exec_push_changed hb hissuer hwf h)
    ⟨(((flushed_wrote s).wroteOne _).setLast _).respond _, flushed_idleCnt s s.issuer, rfl⟩

/-- Settles O12. -/
theorem pushOfAnUnchangedSampleIsCounted : Obligations.PushOfAnUnchangedSampleIsCounted := by
  intro a s _ hissuer hwf hpaddles hkey haudio
  obtain ⟨t, hexec, hthread, hresponse, hcount, hwrote, hw, hslots, hlast⟩ :=
    push_unchanged_ends hissuer hwf ((sameSample_iff _ _).2 ⟨hpaddles, hkey, haudio⟩)
  exact ⟨t, hexec, hthread, hresponse, hcount, hwrote.slots, hw, hslots, hlast, hwrote.only.sameButStream⟩

/-- Settles O13. -/
theorem pushOfAChangedSampleIsWritten : Obligations.PushOfAChangedSampleIsWritten := by
  intro a s hb hissuer hwf hchanged
  rw [← sameSample_iff, Bool.not_eq_true] at hchanged
  obtain ⟨t, hexec, hthread, hresponse, hwrote, hcount, hlast⟩ := push_changed_ends hb hissuer hwf hchanged
  exact ⟨t, hexec, hthread, hresponse, hwrote.slots, hcount, hlast, hwrote.only.sameButStream⟩

/-! ### O21: the round trip -/

/-- Annotating keeps every field that PUSH compares (40_stream.md R201, R205). -/
theorem sameSample_annotate (y x l : Sample) : sameSample y (annotate x l) = sameSample y x := by
  have hfield : ∀ start len, start + len ≤ 24 → (annotate x l).extractLsb' start len = x.extractLsb' start len := by
    intro start len hlen
    refine BitVec.eq_of_getLsbD_eq fun i hi => ?_
    rw [BitVec.getLsbD_extractLsb', BitVec.getLsbD_extractLsb', getLsbD_annotate (by omega)]
  have hkey : sampleKey (annotate x l) = sampleKey x := getLsbD_annotate (by omega)
  simp only [sameSample, samplePaddles, sampleAudio, hkey, hfield 0 2 (by omega), hfield 16 8 (by omega)]

theorem sameSample_self (x : Sample) : sameSample x x = true := (sameSample_iff x x).2 ⟨rfl, rfl, rfl⟩

/-- The marker that `n` counted ticks leave pending (40_stream.md R202, R203). -/
theorem pendingMarker_of_count {s : State} {n : Nat} (h : s.idleCnt.toNat = min n 65535) :
    pendingMarker s = if n = 0 then [] else [marker (BitVec.ofNat 16 (min n 65535))] := by
  have hcount : s.idleCnt = BitVec.ofNat 16 (min n 65535) := by rw [← h, BitVec.ofNat_toNat, BitVec.setWidth_eq]
  have hzero : s.idleCnt = 0 ↔ n = 0 := by rw [← BitVec.toNat_inj, h]; simp
  by_cases hn : n = 0
  · rw [pendingMarker_of_none (hzero.2 hn), if_pos hn]
  · rw [pendingMarker_of_pending (mt hzero.1 hn), if_neg hn, hcount]

theorem issueMany_succ {i : Instr} {s t : State} (n : Nat) (h : exec i s = .next t) : issueMany (n + 1) i s = issueMany n i t := by
  rw [issueMany, h]

/-- Pushes of an unchanged sample, one after the other, write nothing and are all counted, up to 65535. -/
theorem issueMany_push_unchanged {a : Word64} (hwf : (Instr.push a).wellFormed = true) (n : Nat) {s : State}
    (hissuer : s.issuer = .producer) (h : sameSample (operandSample a) s.last = true) :
    ∃ t, issueMany n (.push a) s = some t ∧ Wrote [] s t ∧ t.last = s.last ∧
      t.idleCnt.toNat = min (s.idleCnt.toNat + n) 65535 := by
  induction n generalizing s with
  | zero => exact ⟨s, rfl, Wrote.refl, rfl, by have := s.idleCnt.isLt; omega⟩
  | succ n ih =>
    obtain ⟨u, hexec, -, -, hone, hwrote, -, -, hlast⟩ := push_unchanged_ends hissuer hwf h
    obtain ⟨t, hmany, hrest, hkept, hcount⟩ := ih (hwrote.only.issuer_eq.trans hissuer) (hlast ▸ h)
    exact ⟨t, (issueMany_succ n hexec).trans hmany, hwrote.append hrest, hkept.trans hlast, by omega⟩

/-- Settles O21: the first push writes its sample, the `n` that repeat it are counted, and the last one writes the count and its own
sample. -/
theorem compressionRoundTrip : Obligations.CompressionRoundTrip := by
  intro x y n s hb hissuer hwfx hwfy hidle hx hy
  obtain ⟨r, hfirst, -, -, hwrote, hzero, hlast⟩ := push_changed_ends hb hissuer hwfx hx
  rw [pendingMarker_of_none hidle, List.nil_append] at hwrote
  have hrepeats : sameSample (operandSample x) r.last = true := by rw [hlast, sameSample_annotate, sameSample_self]
  obtain ⟨t, hmany, hsilent, hkept, hcount⟩ := issueMany_push_unchanged hwfx n (hwrote.only.issuer_eq.trans hissuer) hrepeats
  have hwroteFirst : Wrote [annotate (operandSample x) s.last] s t := hwrote.append hsilent
  rw [hlast] at hkept
  have hchanged : sameSample (operandSample y) t.last = false := by rw [hkept, sameSample_annotate, hy]
  obtain ⟨u, hlater, -, -, hwroteLater, -⟩ :=
    push_changed_ends (hwroteFirst.only.unlimited hb) (hwroteFirst.only.issuer_eq.trans hissuer) hwfy hchanged
  rw [hzero, show (0 : BitVec 16).toNat = 0 from rfl, Nat.zero_add] at hcount
  rw [pendingMarker_of_count hcount, hkept] at hwroteLater
  exact ⟨t, u, (issueMany_succ n hfirst).trans hmany, hlater, (hwroteFirst.append hwroteLater).slots⟩

end Sys2Proof.Machine
end

section
/-!
PROOFS of O23 and O24 (HRT_INIT and HRT_RESYNC), of O25, O26 and O27 (what an HRT_TICK answers for what its loads return) and of O28 (a
tick never skips); 41_hrt_consumer.md R240 to R245. Up to its result a tick only loads (`TickReaches`), so the state it ends in differs
from the first one in views and ages, in the fault record when it raises a fault, and in the cursor when it reads a sample.
-/

namespace Sys2Proof.Machine

/-! ### What a context owner's command leaves alone -/

/-- `t` differs from `s` at most in context `k`, the fault record, the issuer's port and the draws. -/
structure OwnerFrame (k : CtxIdx) (s t : State) : Prop where
  stream : SameStream s t
  contexts : SameOtherContexts k s t
  fsm : t.fsm = s.fsm
  outLatch : t.outLatch = s.outLatch
  outside : SameOutside s t

/-- A command of the role table's row "owner of context `k`" has that frame, wherever it is switched out (60_exceptions.md R410). -/
theorem ownerFrame_of_exec {i : Instr} {k : CtxIdx} {s t : State} (hrole : roleOf i = .ownerOf k) (hadmits : s.admitsCommand i)
    (hexec : exec i s = .next t) : OwnerFrame k s t := by
  have hshared : roleOf i ≠ .producerOnly := by rw [hrole]; nofun
  have hne : ∀ {j}, roleOf j = .producerOnly → i ≠ j := fun hj e => hshared (e ▸ hj)
  have howner : s.issuer.ownContext = some k := by
    obtain ⟨hadmitted, -⟩ := hadmits
    rw [hrole] at hadmitted
    exact hadmitted.1
  obtain ⟨hlatch, -, hfsm⟩ := outputLatchHasOneWriter i s t (fun _ _ => hne rfl) (.inl hexec)
  refine ⟨?_, fun j hj => ?_, hfsm (fun _ => hne rfl) (fun _ _ => hne rfl), hlatch, sameOutside_of_exec (hne rfl) hexec⟩
  · exact exec_keeps (P := fun op => op.writesStream = false) (I := SameStream s)
      ⟨fun _ _ _ h => h, fun _ _ _ h => h, fun _ _ _ h => h, fun _ h => h⟩ closed_quiet (fun _ _ => opening_quiet hshared)
      (fun _ => bodyOf_stream s hshared) (fun op th u hop hu => hu.trans (perform_stream op s.issuer th u hop))
      ⟨rfl, rfl, rfl, rfl, rfl⟩ hexec
  · have hother : s.issuer.ownContext ≠ some j := by
      rw [howner]; exact fun e => hj (Option.some.inj e).symm
    exact ctx_of_runs hother (.inl ⟨rfl, hexec⟩)

/-! ### O23 and O24: HRT_INIT and HRT_RESYNC -/

section
variable {k : CtxIdx} {s : State} (hb : s.unlimited)
include hb

theorem exec_hrtInit {a : Word64} (hadmits : s.admitsCommand (.hrtInit k a)) : exec (.hrtInit k a) s =
    .next (((s.acqLoadW s.issuer).2.setCtx k
        { s.ctx k with mode := .hrt, maxLag := operandWord a, cur := (s.acqLoadW s.issuer).1 }).respond
      s.issuer (okResponse .ok 0)) :=
  exec_oneEntry hb hadmits rfl rfl

theorem exec_hrtResync (hadmits : s.admitsCommand (.hrtResync k)) : exec (.hrtResync k) s =
    .next (((s.acqLoadW s.issuer).2.setCtx k { s.ctx k with cur := (s.acqLoadW s.issuer).1 }).respond
      s.issuer (okResponse .ok 0)) :=
  exec_oneEntry hb hadmits rfl rfl

end

/-- A command of the owner of context `k` that loads W, writes its context and is answered ends so. -/
theorem ends_of_loadW_setCtx {i : Instr} {k : CtxIdx} {s : State} {c : Context} {r : Response} (hrole : roleOf i = .ownerOf k)
    (hadmits : s.admitsCommand i) (hexec : exec i s = .next (((s.acqLoadW s.issuer).2.setCtx k c).respond s.issuer r)) :
    Ends s (exec i s) r fun t => t.ctx k = c ∧ SameButContext k s t :=
  have hframe := ownerFrame_of_exec hrole hadmits hexec
  ends_of_exec hexec ⟨State.ctx_setCtx_same _ _ _, hframe.stream, ⟨rfl, rfl, rfl, rfl⟩, hframe.contexts, hframe.fsm,
    hframe.outLatch, hframe.outside, rfl⟩

/-- Settles O23. -/
theorem hrtInitStartsAtTheWritePosition : Obligations.HrtInitStartsAtTheWritePosition := by
  rintro k a s w hb hadmits ⟨rfl, -⟩
  exact ends_of_loadW_setCtx rfl hadmits (exec_hrtInit hb hadmits)

/-- Settles O24. -/
theorem hrtResyncJumpsToTheWritePosition : Obligations.HrtResyncJumpsToTheWritePosition := by
  rintro k s w hb hadmits ⟨rfl, -⟩
  exact ends_of_loadW_setCtx rfl hadmits (exec_hrtResync hb hadmits)

/-! ### How an HRT_TICK comes to its tests -/

/-- The HRT_TICK of context `k` issued in `s` has come to `ops` by loading alone, with fuel `n` left; the next loads of W return `ws`. -/
def TickReaches (k : CtxIdx) (s : State) (n : Nat) (ops : List Op) (ws : List Word32) : Prop :=
  ∃ x, Like s.issuer s x ∧ x.loadsW s.issuer ws ∧ x.ctxs = s.ctxs ∧
    drive s.issuer sliceFuel ⟨[.hrtFlag k], .ok, 0, false⟩ s = drive s.issuer n ⟨ops, .ok, 0, false⟩ x

/-- The HRT_TICK of context `k` issued in `s` is answered in `u`. -/
def TickAnswers (k : CtxIdx) (s u : State) (r : Response) : Prop :=
  drive s.issuer sliceFuel ⟨[.hrtFlag k], .ok, 0, false⟩ s = u.respond s.issuer r

section
variable {k : CtxIdx} {s u : State} {w cur : Word32} {ws : List Word32}

theorem exec_of_tickAnswers {r : Response} (hadmits : s.admitsCommand (.hrtTick k)) (h : TickAnswers k s u r) :
    exec (.hrtTick k) s = .next (u.respond s.issuer r) := by
  rw [exec_admitted s (.hrtTick k) hadmits]
  exact congrArg _ h

/-- (a) Without a fault the tick comes to its latency test (41_hrt_consumer.md R241). -/
theorem tickReaches_lag (hb : s.unlimited) (hactive : (s.acqLoadActive s.issuer).1 = false)
    (hloads : (s.acqLoadActive s.issuer).2.loadsW s.issuer ws) : TickReaches k s 39 [.hrtLag k] ws :=
  run_hrtFlag k (Like.refl hb) hloads hactive

/-- An entry that loads W, whatever state the tick has come to it in, brings it on. -/
theorem TickReaches.load {n : Nat} {ops next : List Op} (h : TickReaches k s (n + 1) ops (w :: ws))
    (hload : ∀ x, Like s.issuer s x → x.loadsW s.issuer (w :: ws) → x.ctx k = s.ctx k →
      ∃ y, Like s.issuer s y ∧ y.loadsW s.issuer ws ∧ y.ctxs = x.ctxs ∧
        drive s.issuer (n + 1) ⟨ops, .ok, 0, false⟩ x = drive s.issuer n ⟨next, .ok, 0, false⟩ y) :
    TickReaches k s n next ws := by
  obtain ⟨x, hlike, hloads, hctxs, hrun⟩ := h
  obtain ⟨y, hy, hrest, hkept, hstep⟩ := hload x hlike hloads (ctx_of_ctxs hctxs k)
  exact ⟨y, hy, hrest, hkept.trans hctxs, hrun.trans hstep⟩

/-- (b), (c) A lag within MAXLAG that is not 0 brings it to the overrun test. -/
theorem tickReaches_overrun (h : TickReaches k s 39 [.hrtLag k] (w :: ws)) (hcur : cur = (s.ctx k).cur)
    (hmax : w - cur ≤ (s.ctx k).maxLag) (hne : w ≠ cur) : TickReaches k s 38 [.hrtOverrun k] ws :=
  h.load fun x hlike hloads hctx => by
    rw [hcur, ← hctx] at hmax hne
    exact run_hrtLag_go k hlike hloads (BitVec.not_lt.2 hmax) (sub_ne_zero.2 hne)

/-- (d) A second lag within CAP brings it to the read of the sample at its cursor. -/
theorem tickReaches_read (h : TickReaches k s 38 [.hrtOverrun k] (w :: ws)) (hcur : cur = (s.ctx k).cur)
    (hcap : (w - cur).toNat ≤ 2 ^ s.params.capLog2.val) : TickReaches k s 37 [.readLoad cur (.hrt k)] ws :=
  h.load fun x hlike hloads hctx => by
    have hwithin : ¬ s.params.cap < w - cur := by rw [Params.cap_lt_iff]; omega
    rw [hcur, ← hctx] at hwithin ⊢
    exact run_hrtOverrun_go k hlike hloads hwithin

/-! ### What an HRT_TICK changes when it is answered -/

/-- A tick that has only loaded when it is answered has changed its agent's port alone. -/
theorem ends_of_loads {kd : Kind} {v : Word64} (hadmits : s.admitsCommand (.hrtTick k)) (hlike : Like s.issuer s u)
    (hctxs : u.ctxs = s.ctxs) (h : TickAnswers k s u (okResponse kd v)) :
    Ends s (exec (.hrtTick k) s) (okResponse kd v) (SameButPort s) :=
  have hexec := exec_of_tickAnswers hadmits h
  have hframe := ownerFrame_of_exec rfl hadmits hexec
  ends_of_exec hexec ⟨⟨hframe.stream, ⟨hlike.active, hlike.code, hlike.data, hlike.count⟩, hctxs, hframe.fsm, hframe.outLatch⟩,
    hframe.outside, hlike.draws⟩

/-- The pins are safe while ACTIVE is set (45_producer.md R342). -/
theorem pins_of_active {t : State} (h : t.active.cur = 1) : t.txKey = false ∧ t.audioMute = true ∧ t.faultPin = true := by
  simp [State.txKey, State.audioMute, State.faultPin, h]

/-- A tick that comes to a FaultSet by loading alone records the fault and answers FAULT (43_fault.md R281). -/
theorem ends_of_faultSet {n : Nat} {code : BitVec 8} {data : Word32} (hadmits : s.admitsCommand (.hrtTick k))
    (h : TickReaches k s (n + 6) (faultSetNumberOps code data ++ [.result .fault 0]) ws) :
    Ends s (exec (.hrtTick k) s) (okResponse .fault 0) (RecordedFault code data s) := by
  obtain ⟨x, hlike, -, hctxs, hrun⟩ := h
  obtain ⟨y, hactive, hcode, hdata, hcount, hkept, hbudget, hdraws, hset⟩ :=
    run_faultSet (a := s.issuer) (n := n + 2) (rest := [.result .fault 0]) (kd := .ok) (v := 0) (o := false) code data hlike.budget
  have hanswer : TickAnswers k s y (okResponse .fault 0) :=
    (hrun.trans hset).trans ((run_op _ _ _ _ _ _ _ _ hbudget).trans (run_done _ _ _ _ _ _))
  have hexec := exec_of_tickAnswers hadmits hanswer
  have hframe := ownerFrame_of_exec rfl hadmits hexec
  obtain ⟨htx, haudio, hpin⟩ := pins_of_active (t := y.respond s.issuer (okResponse .fault 0)) hactive
  exact ends_of_exec hexec ⟨hactive, hcode, hdata, hcount.trans (by rw [hlike.count]), htx, haudio, hpin, hframe.stream,
    hkept.trans hctxs, hframe.fsm, hframe.outLatch, hframe.outside, hdraws.trans hlike.draws⟩

end

/-! ### O25, O26 and O27: the answers of an HRT_TICK -/

/-- Settles O25: the load of ACTIVE alone decides the answer. -/
theorem hrtTickUnderAFaultChangesNothing : Obligations.HrtTickUnderAFaultChangesNothing := by
  intro k s hb hadmits hactive
  have hperform : (Op.hrtFlag k).perform s.issuer ⟨[], .ok, 0, false⟩ s =
      (⟨[], .fault, 0, false⟩, (s.acqLoadActive s.issuer).2) := by
    simp only [Op.perform, runHrtFlag, hactive, if_true, Thread.withResult]
  have hanswer : TickAnswers k s (s.acqLoadActive s.issuer).2 (okResponse .fault 0) := by
    rw [TickAnswers, sliceFuel, run_op _ _ _ _ _ _ _ _ hb, hperform]
    exact run_done _ _ _ _ _ _
  exact ends_of_loads hadmits (loadActive_like hb) rfl hanswer

/-- Settles O26: each of the three tests that raise a fault comes to a FaultSet with the lag it has measured. -/
theorem hrtTickRaisesLatencyOrOverrun : Obligations.HrtTickRaisesLatencyOrOverrun := by
  intro k s w w2 w3 cur hb hadmits hcur hactive hloads
  have hlag : TickReaches k s 39 [.hrtLag k] [w, w2, w3] := tickReaches_lag hb hactive hloads
  refine ⟨fun hmax => ?_, fun hmax hne hcap => ?_, fun hmax hne hcap hout => ?_⟩
  · refine ends_of_faultSet (n := 32) hadmits (hlag.load fun x hlike hw hctx => ?_)
    rw [hcur, ← hctx] at hmax ⊢
    exact run_hrtLag_lat k hlike hw hmax
  · refine ends_of_faultSet (n := 31) hadmits ((tickReaches_overrun hlag hcur hmax hne).load fun x hlike hw hctx => ?_)
    rw [← Params.cap_lt_iff, hcur, ← hctx] at hcap
    rw [hcur, ← hctx]
    exact run_hrtOverrun_lat k hlike hw hcap
  · have hread := tickReaches_read (tickReaches_overrun hlag hcur hmax hne) hcur hcap
    refine ends_of_faultSet (n := 30) hadmits (hread.load fun x hlike hw _ => ?_)
    rw [← Params.cap_lt_iff] at hout
    exact run_readLoad_fail cur (.hrt k) hlike hw (hout.imp_left sub_eq_zero.2)

/-- Settles O27: at a lag of 0 the tick ends there; in its bounds and in the window it copies the slot and moves its cursor. -/
theorem hrtTickReadsTheNextSample : Obligations.HrtTickReadsTheNextSample := by
  intro k s w w2 w3 cur hb hadmits hcur hactive hloads
  have hlag : TickReaches k s 39 [.hrtLag k] [w, w2, w3] := tickReaches_lag hb hactive hloads
  refine ⟨fun hzero => ?_, fun hmax hne hcap hlow hhigh hcopy => ?_⟩
  · obtain ⟨x, hlike, hw, hctxs, hrun⟩ := hlag
    have hnone : w - (x.ctx k).cur = 0#32 := by rw [ctx_of_ctxs hctxs, ← hcur]; exact sub_eq_zero.2 hzero
    have hmax : ¬ (x.ctx k).maxLag < w - (x.ctx k).cur := by rw [hnone]; exact BitVec.not_lt_zero
    obtain ⟨y, hy, -, hkept, hstep⟩ := run_hrtLag_none k hlike hw hmax hnone
    exact ends_of_loads hadmits hy (hkept.trans hctxs) ((hrun.trans hstep).trans (run_done _ _ _ _ _ _))
  · have hin : ¬ (w3 - cur = 0#32 ∨ s.params.cap < w3 - cur) := by rw [window_iff]; omega
    obtain ⟨hpos, hle⟩ := not_or.1 hin
    have hread := tickReaches_read (tickReaches_overrun hlag hcur hmax hne) hcur hcap
    have hcopies : TickReaches k s 36 [.slotCopy cur (.hrt k)] [] :=
      hread.load fun x hlike hw _ => run_readLoad_in cur (.hrt k) hlike hw hpos hle
    obtain ⟨y, hy, -, hctxs, hrun⟩ := hcopies
    obtain ⟨z, hz, hmoved, hstep⟩ := run_slotCopy_hrt cur k hy hcopy
    rw [ctx_of_ctxs hctxs, ← hcur] at hmoved
    have hanswer : TickAnswers k s z (okResponse .ok ((s.slot (s.slotOf cur)).zeroExtend 64)) :=
      (hrun.trans hstep).trans (run_done _ _ _ _ _ _)
    have hexec := exec_of_tickAnswers hadmits hanswer
    have hframe := ownerFrame_of_exec rfl hadmits hexec
    exact ends_of_exec hexec ⟨hmoved, hframe.stream, ⟨hz.active, hz.code, hz.data, hz.count⟩, hframe.contexts, hframe.fsm,
      hframe.outLatch, hframe.outside, hz.draws⟩

/-! ### O28: a tick never skips -/

/-- `drive_induct` with fuel above the weight of the command: it ends answered with nothing left, or switched out with something left. -/
theorem drive_induct_fuelled (a : Agent) (I : Thread → State → Prop) (hspend : ∀ th s, I th s → I th s.spend)
    (hstep : ∀ op rest th s, th.ops = op :: rest → I th s →
      I (op.perform a { th with ops := rest } s).1 (op.perform a { th with ops := rest } s).2)
    (n : Nat) (th : Thread) (s : State) (hweight : opsWeight th.ops < n) (h : I th s) :
    ∃ th' s', I th' s' ∧ (th'.ops = [] ∧ drive a n th s = s'.finish a th' ∨ th'.ops ≠ [] ∧ drive a n th s = s'.park a th') := by
  induction n generalizing th s with
  | zero => omega
  | succ n ih =>
    cases hops : th.ops with
    | nil => exact ⟨th, s, h, .inl ⟨hops, drive_done a n th s hops⟩⟩
    | cons op rest =>
      have hlighter : ∀ u, opsWeight (op.perform a { th with ops := rest } u).1.ops < n := fun u => by
        have hunfolds := op.perform_weight a { th with ops := rest } u
        rw [hops, opsWeight_cons] at hweight
        simp only at hunfolds
        omega
      simp only [drive, hops]
      split
      · exact ih _ _ (hlighter s) (hstep op rest th s hops h)
      · split
        · exact ⟨th, s, h, .inr ⟨by rw [hops]; nofun, rfl⟩⟩
        · exact ih _ _ (hlighter s.spend) (hstep op rest th s.spend hops (hspend th s h))

/-- A slice has fuel for whatever is left of a hard-RT tick. -/
theorem hrtTickLeft_weight {k : CtxIdx} {ops : List Op} (h : hrtTickLeft k ops) : opsWeight ops < sliceFuel := by
  rcases h with rfl | rfl | rfl | ⟨i, rfl⟩ | ⟨i, rfl⟩ | ⟨code, data, -, front, hfront⟩
  case inr.inr.inr.inr.inr =>
    have hwhole : opsWeight (front ++ ops) = 5 := by rw [hfront]; rfl
    rw [opsWeight_append] at hwhole
    rw [sliceFuel]; omega
  all_goals simp [opWeight, sliceFuel]

/-- The entries of a hard-RT tick write no context, but for the copy of its read, which is its last one. -/
theorem hrtTickLeft_writes {k : CtxIdx} {op : Op} {rest : List Op} (h : hrtTickLeft k (op :: rest)) :
    op.ctxWritten = none ∨ (∃ i, op = .slotCopy i (.hrt k)) ∧ rest = [] := by
  rcases h with h | h | h | ⟨i, h⟩ | ⟨i, h⟩ | ⟨code, data, -, h⟩
  case inr.inr.inr.inr.inl => cases h; exact .inr ⟨⟨i, rfl⟩, rfl⟩
  case inr.inr.inr.inr.inr =>
    rcases faultSet_mem (suffix_mem h) with hfault | rfl
    · cases op with
      | storeCode _ | storeData _ | countFault | storeActive _ => exact .inl rfl
      | _ => cases hfault
    · exact .inl rfl
  all_goals cases h; exact .inl rfl

/-- A hard-RT tick of context `k` that found it as `c` is still at its tests, or in its FaultSet, with the context as it was; or it has
read a sample and has only to answer it. -/
def TickProgress (k : CtxIdx) (c : Context) (th : Thread) (u : State) : Prop :=
  hrtTickLeft k th.ops ∧ u.ctx k = c ∨ th.ops = [] ∧ th.kind = .ok ∧ u.ctx k = { c with cur := c.cur + 1 }

theorem tickProgress_perform {k : CtxIdx} {c : Context} {a : Agent} {op : Op} {rest : List Op} {th : Thread} {u : State}
    (hops : th.ops = op :: rest) (h : TickProgress k c th u) :
    TickProgress k c (op.perform a { th with ops := rest } u).1 (op.perform a { th with ops := rest } u).2 := by
  rcases h with ⟨hleft, hctx⟩ | ⟨hdone, -⟩
  · rw [hops] at hleft
    rcases hrtTickLeft_writes hleft with hnone | ⟨⟨i, rfl⟩, rfl⟩
    · obtain ⟨new, hunfolds, hnew⟩ := perform_ops op a { th with ops := rest } u
      exact .inl ⟨by rw [hnew]; exact hrtLeft_step hleft hunfolds,
        (perform_ctx op a _ u k (by rw [hnone]; nofun)).trans hctx⟩
    · obtain ⟨d, hd⟩ := copySlot_frame u th.overlapped i
      refine .inr ⟨rfl, rfl, ?_⟩
      simp only [Op.perform, runSlotCopy_eq, readSucceeded, State.ctx_setCtx_same, hd]
      exact congrArg (fun e : Context => { e with cur := e.cur + 1 }) hctx
  · rw [hops] at hdone; cases hdone

/-- The context `k` in `t` is as in `s`, or its cursor has moved on by one and agent `g` has been answered OK. -/
def NeverSkips (k : CtxIdx) (g : Agent) (s t : State) : Prop :=
  t.ctx k = s.ctx k ∨
    t.ctx k = { s.ctx k with cur := (s.ctx k).cur + 1 } ∧
      (t.port g).thread = none ∧ ∃ v, (t.port g).response = some (okResponse .ok v)

/-- What is left of a tick never skips when it is run. -/
theorem neverSkips_drive {k : CtxIdx} {g : Agent} {th : Thread} {s : State} (h : hrtTickLeft k th.ops) :
    NeverSkips k g s (drive g sliceFuel th s) := by
  obtain ⟨th', u, hprogress, hend⟩ := drive_induct_fuelled g (TickProgress k (s.ctx k)) (fun _ _ h => h)
    (fun _ _ _ _ hops h => tickProgress_perform hops h) sliceFuel th s (hrtTickLeft_weight h) (.inl ⟨h, rfl⟩)
  rcases hprogress with ⟨-, hctx⟩ | ⟨hdone, hkind, hctx⟩
  · rcases hend with ⟨-, hfinish⟩ | ⟨-, hpark⟩
    · rw [hfinish]; exact .inl hctx
    · rw [hpark]; exact .inl hctx
  · rcases hend with ⟨-, hfinish⟩ | ⟨hleft, -⟩
    · rw [hfinish]
      refine .inr ⟨hctx, ?_⟩
      rw [State.port_finish_same, hkind]
      exact ⟨rfl, th'.value, rfl⟩
    · exact absurd hdone hleft

theorem neverSkips_exec {k : CtxIdx} {s t : State} (h : exec (.hrtTick k) s = .next t) : NeverSkips k s.issuer s t := by
  rcases exec_cases (.hrtTick k) s t h with ⟨st, -, rfl⟩ | ⟨-, rfl⟩
  · exact .inl rfl
  · exact neverSkips_drive (.inl rfl)

/-- Settles O28: a tick is issued, by itself or by a step, or a step goes on with what is left of one. -/
theorem hrtTickNeverSkips : Obligations.HrtTickNeverSkips := by
  rintro k s t g (⟨hexec, rfl⟩ | ⟨hstep, hnext⟩)
  · exact neverSkips_exec hexec
  · rcases step_cases s t g (.hrtTick k) hnext hstep with
      ⟨slice, rest, cs, rfl, -, hexec⟩ | ⟨slice, rest, th, -, -, ⟨hleft, -⟩, -, rfl⟩
    · exact neverSkips_exec hexec
    · exact neverSkips_drive hleft

end Sys2Proof.Machine
end

section
/-!
PROOFS of O29 (BE_INIT), of O30, O31 and O32 (what a BE_TICK answers for what its loads return) and of O33 (BE_DROPPED);
42_be_consumer.md R260 to R262. Up to the copy of its read a tick only loads W and writes its own context (`BeTickReaches`).
-/

namespace Sys2Proof.Machine

/-! ### O29 and O33: BE_INIT and BE_DROPPED -/

section
variable {k : CtxIdx} {s : State}

theorem exec_beInit {a b : Word64} (hb : s.unlimited) (hadmits : s.admitsCommand (.beInit k a b)) : exec (.beInit k a b) s =
    .next (((s.acqLoadW s.issuer).2.setCtx k { s.ctx k with
        mode := .be, thr := operandWord a, margin := operandWord b, dropped := 0, cur := (s.acqLoadW s.issuer).1 }).respond
      s.issuer (okResponse .ok 0)) :=
  exec_oneEntry hb hadmits rfl rfl

/-- An admitted BE_DROPPED is answered at once: it has no micro-step. -/
theorem exec_beDropped (hadmits : s.admitsCommand (.beDropped k)) : exec (.beDropped k) s =
    .next (s.respond s.issuer (okResponse .ok ((s.ctx k).dropped.zeroExtend 64))) := by
  rw [exec_admitted s _ hadmits]
  exact congrArg _ (run_done _ _ _ _ _ _)

end

/-- Settles O29. -/
theorem beInitStartsAtTheWritePosition : Obligations.BeInitStartsAtTheWritePosition := by
  rintro k a b s w hb hadmits ⟨rfl, -⟩
  exact ends_of_loadW_setCtx rfl hadmits (exec_beInit hb hadmits)

/-- Settles O33. -/
theorem beDroppedAnswersTheCounter : Obligations.BeDroppedAnswersTheCounter := fun _ s _ hadmits =>
  ends_of_exec (exec_beDropped hadmits) (respond_same s _)

/-! ### The arithmetic of a skip -/

/-- `sat_32` as a number (00_scope.md R14). -/
theorem satAdd32_toNat (x y : Word32) : (satAdd32 x y).toNat = min (x.toNat + y.toNat) (2 ^ 32 - 1) := by
  unfold satAdd32
  split
  · rw [BitVec.toNat_add_of_lt ‹_›]; omega
  · rw [BitVec.toNat_ofNat]; omega

theorem satAdd32_eq_ofNat (x y : Word32) : satAdd32 x y = BitVec.ofNat 32 (min (x.toNat + y.toNat) (2 ^ 32 - 1)) := by
  rw [← satAdd32_toNat, BitVec.ofNat_toNat, BitVec.setWidth_eq]

theorem le_satAdd32 (x y : Word32) : x ≤ satAdd32 x y := by
  have hx := x.isLt
  rw [BitVec.le_def, satAdd32_toNat]
  omega

/-- How far a skip moves the cursor: the lag less the margin, which does not wrap when the margin is within the lag. -/
theorem skipped_toNat {w margin cur : Word32} (h : margin < w - cur) :
    (w - margin - cur).toNat = (w - cur).toNat - margin.toNat := by
  rw [sub_right_comm, BitVec.toNat_sub_of_le (BitVec.le_of_lt h)]

/-- When a tick must skip (R261 (b)), in the words of the model. -/
theorem mustSkip_iff (p : Params) (thr lag : Word32) : p.cap < lag ∨ 0#32 < thr ∧ thr < lag ↔
    2 ^ p.capLog2.val < lag.toNat ∨ thr ≠ 0 ∧ thr < lag := by
  rw [Params.cap_lt_iff, BitVec.pos_iff_ne_zero]
  exact Iff.rfl

/-- A tick that must skip is behind. -/
theorem lag_ne_zero_of_mustSkip {p : Params} {thr lag : Word32} (h : 2 ^ p.capLog2.val < lag.toNat ∨ thr ≠ 0 ∧ thr < lag) :
    lag ≠ 0#32 := by
  rintro rfl
  rcases h with hcap | ⟨-, hthr⟩
  · exact absurd hcap (Nat.not_lt_zero _)
  · exact BitVec.not_lt_zero hthr

/-! ### How a BE_TICK comes to its tests -/

/-- The BE_TICK of context `k` issued in `s` has come to `th`, with fuel `n` left, by loads of W and writes of its own context alone; `K`
holds of the state it has come to, and its next loads of W return `ws`. -/
def BeTickReaches (k : CtxIdx) (s : State) (n : Nat) (th : Thread) (K : State → Prop) (ws : List Word32) : Prop :=
  ∃ x, Like s.issuer s x ∧ x.loadsW s.issuer ws ∧ K x ∧
    drive s.issuer sliceFuel ⟨[.beLag k], .ok, 0, false⟩ s = drive s.issuer n th x

section
variable {k : CtxIdx} {s : State} {n : Nat} {w cur : Word32} {ws : List Word32} {c : Context} {K L : State → Prop}

theorem beTickReaches_start (hb : s.unlimited) (hloads : s.loadsW s.issuer ws) :
    BeTickReaches k s sliceFuel ⟨[.beLag k], .ok, 0, false⟩ (fun x => x.ctxs = s.ctxs) ws :=
  ⟨s, Like.refl hb, hloads, rfl, rfl⟩

/-- `K` speaks of the contexts alone. -/
def OfContexts (K : State → Prop) : Prop := ∀ x y : State, y.ctxs = x.ctxs → K x → K y

theorem ofContexts_ctxs (s : State) : OfContexts fun x => x.ctxs = s.ctxs := fun _ _ hkept => hkept.trans

theorem ofContexts_ctx (k : CtxIdx) (c : Context) : OfContexts fun x => x.ctx k = c := fun _ _ hkept => (ctx_of_ctxs hkept k).trans

/-- An entry that loads W, whatever state the tick has come to it in, brings it on. -/
theorem BeTickReaches.load {th next : Thread} (h : BeTickReaches k s (n + 1) th K (w :: ws))
    (hload : ∀ x, Like s.issuer s x → x.loadsW s.issuer (w :: ws) → K x →
      ∃ y, Like s.issuer s y ∧ y.loadsW s.issuer ws ∧ L y ∧ drive s.issuer (n + 1) th x = drive s.issuer n next y) :
    BeTickReaches k s n next L ws := by
  obtain ⟨x, hlike, hloads, hx, hrun⟩ := h
  obtain ⟨y, hy, hrest, hL, hstep⟩ := hload x hlike hloads hx
  exact ⟨y, hy, hrest, hL, hrun.trans hstep⟩

/-- An entry that loads W and writes no context keeps what is known of them. -/
theorem BeTickReaches.pass {th next : Thread} (h : BeTickReaches k s (n + 1) th K (w :: ws)) (hK : OfContexts K)
    (hload : ∀ x, Like s.issuer s x → x.loadsW s.issuer (w :: ws) → K x →
      ∃ y, Like s.issuer s y ∧ y.loadsW s.issuer ws ∧ y.ctxs = x.ctxs ∧ drive s.issuer (n + 1) th x = drive s.issuer n next y) :
    BeTickReaches k s n next K ws :=
  h.load fun x hlike hloads hx =>
    have ⟨y, hy, hrest, hkept, hstep⟩ := hload x hlike hloads hx
    ⟨y, hy, hrest, hK x y hkept hx, hstep⟩

theorem BeTickReaches.imp {th : Thread} (h : BeTickReaches k s n th K ws) (himp : ∀ x, K x → L x) : BeTickReaches k s n th L ws := by
  obtain ⟨x, hlike, hloads, hx, hrun⟩ := h
  exact ⟨x, hlike, hloads, himp x hx, hrun⟩

theorem exec_of_beTickReaches {kd : Kind} {v : Word64} (hadmits : s.admitsCommand (.beTick k))
    (h : BeTickReaches k s (n + 1) ⟨[], kd, v, false⟩ K ws) :
    ∃ u, Like s.issuer s u ∧ K u ∧ exec (.beTick k) s = .next (u.respond s.issuer (okResponse kd v)) := by
  obtain ⟨u, hlike, -, hu, hrun⟩ := h
  refine ⟨u, hlike, hu, ?_⟩
  rw [exec_admitted s (.beTick k) hadmits]
  exact congrArg _ (hrun.trans (run_done _ _ _ _ _ _))

/-- A tick that is answered without a write of its context has changed its agent's port alone. -/
theorem beTick_ends_sameButPort {kd : Kind} {v : Word64} (hadmits : s.admitsCommand (.beTick k))
    (h : BeTickReaches k s (n + 1) ⟨[], kd, v, false⟩ (fun x => x.ctxs = s.ctxs) ws) :
    Ends s (exec (.beTick k) s) (okResponse kd v) (SameButPort s) := by
  obtain ⟨u, hlike, hctxs, hexec⟩ := exec_of_beTickReaches hadmits h
  have hframe := ownerFrame_of_exec rfl hadmits hexec
  exact ends_of_exec hexec ⟨⟨hframe.stream, ⟨hlike.active, hlike.code, hlike.data, hlike.count⟩, hctxs, hframe.fsm, hframe.outLatch⟩,
    hframe.outside, hlike.draws⟩

/-- A tick that is answered has changed its agent's port and its own context alone. -/
theorem beTick_ends_sameButContext {kd : Kind} {v : Word64} (hadmits : s.admitsCommand (.beTick k))
    (h : BeTickReaches k s (n + 1) ⟨[], kd, v, false⟩ (fun x => x.ctx k = c) ws) :
    Ends s (exec (.beTick k) s) (okResponse kd v) fun t => t.ctx k = c ∧ SameButContext k s t := by
  obtain ⟨u, hlike, hctx, hexec⟩ := exec_of_beTickReaches hadmits h
  have hframe := ownerFrame_of_exec rfl hadmits hexec
  exact ends_of_exec hexec ⟨hctx, hframe.stream, ⟨hlike.active, hlike.code, hlike.data, hlike.count⟩, hframe.contexts, hframe.fsm,
    hframe.outLatch, hframe.outside, hlike.draws⟩

/-! ### The read of a BE_TICK -/

/-- (c) A read inside the window that does not race answers the slot and moves the cursor on by one. -/
theorem ends_of_beRead {skipped : Bool} (hadmits : s.admitsCommand (.beTick k))
    (h : BeTickReaches k s (n + 3) ⟨[.readLoad c.cur (.be k skipped)], .ok, 0, false⟩ (fun x => x.ctx k = c) (w :: ws))
    (hlow : 1 ≤ (w - c.cur).toNat) (hhigh : (w - c.cur).toNat ≤ 2 ^ s.params.capLog2.val) (hcopy : s.copyDraws false c.cur = false) :
    Ends s (exec (.beTick k) s) (okResponse .ok ((s.slot (s.slotOf c.cur)).zeroExtend 64)) fun t =>
      t.ctx k = { c with cur := c.cur + 1 } ∧ SameButContext k s t := by
  have hin : ¬ (w - c.cur = 0#32 ∨ s.params.cap < w - c.cur) := by rw [window_iff]; omega
  obtain ⟨hne, hle⟩ := not_or.1 hin
  have hcopies : BeTickReaches k s (n + 2) ⟨[.slotCopy c.cur (.be k skipped)], .ok, 0, false⟩ (fun x => x.ctx k = c) ws :=
    h.pass (ofContexts_ctx k c) fun x hlike hloads _ => run_readLoad_in c.cur (.be k skipped) hlike hloads hne hle
  obtain ⟨x, hlike, -, hctx, hrun⟩ := hcopies
  obtain ⟨y, hy, hmoved, hstep⟩ := run_slotCopy_be c.cur k skipped hlike hcopy
  rw [hctx] at hmoved
  exact beTick_ends_sameButContext (ws := []) hadmits ⟨y, hy, trivial, hmoved, hrun.trans hstep⟩

/-- (d), (e) A read that fails goes on as `readFailed` says, having loaded alone. -/
theorem beTickReaches_readFailed {r : Reader} {next : Thread} (hK : OfContexts K)
    (h : BeTickReaches k s (n + 1) ⟨[.readLoad cur r], .ok, 0, false⟩ K (w :: ws))
    (hout : w = cur ∨ 2 ^ s.params.capLog2.val < (w - cur).toNat)
    (hnext : ∀ x, (readFailed r (w - cur) ⟨[], .ok, 0, false⟩ x).1 = next) : BeTickReaches k s n next K ws :=
  h.pass hK fun x hlike hloads _ => by
    rw [← Params.cap_lt_iff] at hout
    obtain ⟨y, hy, hrest, hctxs, hrun⟩ := run_readLoad_fail cur r hlike hloads (hout.imp_left sub_eq_zero.2)
    exact ⟨y, hy, hrest, hctxs, by rw [hrun, hnext]⟩

/-! ### O30: a tick that need not skip -/

/-- Settles O30. -/
theorem beTickReadsTheNextSample : Obligations.BeTickReadsTheNextSample := by
  rintro k s w w2 cur hb hadmits rfl hloads
  have hstart := beTickReaches_start (k := k) hb hloads
  refine ⟨fun hzero => ?_, fun hne hcap hthr => ?_⟩
  · refine beTick_ends_sameButPort (n := 38) hadmits (hstart.pass (ofContexts_ctxs s) fun x hlike hw hctxs => ?_)
    rw [← ctx_of_ctxs hctxs k] at hzero
    exact run_beLag_none k hlike hw (sub_eq_zero.2 hzero)
  · have hstay : ¬ (s.params.cap < w - (s.ctx k).cur ∨ 0#32 < (s.ctx k).thr ∧ (s.ctx k).thr < w - (s.ctx k).cur) := by
      rw [mustSkip_iff]
      rintro (hover | ⟨hpos, hlt⟩)
      · omega
      · exact hthr.elim hpos (BitVec.not_lt.2 · hlt)
    have hread : BeTickReaches k s 39 ⟨[.readLoad (s.ctx k).cur (.be k false)], .ok, 0, false⟩ (fun x => x.ctxs = s.ctxs) [w2] :=
      hstart.pass (ofContexts_ctxs s) fun x hlike hw hctxs => by
        rw [← ctx_of_ctxs hctxs k] at hne hstay ⊢
        exact run_beLag_go k hlike hw (sub_ne_zero.2 hne) hstay
    refine ⟨fun hlow hhigh hcopy => ?_, fun hout => ?_⟩
    · exact ends_of_beRead hadmits (hread.imp fun _ hctxs => ctx_of_ctxs hctxs k) hlow hhigh hcopy
    · exact beTick_ends_sameButPort hadmits (beTickReaches_readFailed (ofContexts_ctxs s) hread hout fun _ => rfl)

/-! ### O31 and O32: a tick that must skip -/

/-- (b) A tick that must skip comes to its skip. -/
theorem beTickReaches_skip (hb : s.unlimited) (hloads : s.loadsW s.issuer (w :: ws))
    (hskip : 2 ^ s.params.capLog2.val < (w - (s.ctx k).cur).toNat ∨ (s.ctx k).thr ≠ 0 ∧ (s.ctx k).thr < w - (s.ctx k).cur) :
    BeTickReaches k s 39 ⟨[.beSkip k], .ok, 0, false⟩ (fun x => x.ctx k = s.ctx k) ws :=
  have hne := lag_ne_zero_of_mustSkip hskip
  have hreached := (beTickReaches_start hb hloads).pass (ofContexts_ctxs s) fun x hlike hw hctxs => by
    rw [← mustSkip_iff, ← ctx_of_ctxs hctxs k] at hskip
    rw [← ctx_of_ctxs hctxs k] at hne
    exact run_beLag_skip k hlike hw hne hskip
  hreached.imp fun _ hctxs => ctx_of_ctxs hctxs k

/-- (c), (d) Behind its skip, which has left the context as `c`, the tick goes on as `BeTickAfterSkip` says. -/
theorem beTickAfterSkip_of_reaches {w3 w4 w5 : Word32} (hadmits : s.admitsCommand (.beTick k))
    (h : BeTickReaches k s 38 ⟨[.beAgain k], .ok, 0, false⟩ (fun x => x.ctx k = c) [w3, w4, w5]) : BeTickAfterSkip k s c w3 w4 w5 := by
  have hread (hne : w3 ≠ c.cur) :
      BeTickReaches k s 37 ⟨[.readLoad c.cur (.be k true)], .ok, 0, false⟩ (fun x => x.ctx k = c) [w4, w5] :=
    h.pass (ofContexts_ctx k c) fun x hlike hw hctx => by
      subst hctx
      exact run_beAgain_go k hlike hw (sub_ne_zero.2 hne)
  refine ⟨fun hzero => ?_, fun hne hlow hhigh hcopy => ?_, fun hne hout => ?_⟩
  · refine beTick_ends_sameButContext (n := 36) hadmits (h.pass (ofContexts_ctx k c) fun x hlike hw hctx => ?_)
    subst hctx
    exact run_beAgain_none k hlike hw (sub_eq_zero.2 hzero)
  · exact ends_of_beRead hadmits (hread hne) hlow hhigh hcopy
  · have hjump : BeTickReaches k s 36 ⟨[.beJump k], .ok, 0, false⟩ (fun x => x.ctx k = c) [w5] :=
      beTickReaches_readFailed (ofContexts_ctx k c) (hread hne) hout fun _ => rfl
    refine beTick_ends_sameButContext (n := 34) hadmits (hjump.load fun x hlike hw hctx => ?_)
    have hsat : satAdd32 c.dropped 1#32 = BitVec.ofNat 32 (min (c.dropped.toNat + 1) (2 ^ 32 - 1)) := satAdd32_eq_ofNat _ _
    rw [← hsat, ← hctx]
    exact run_beJump k hlike hw

end

/-- Settles O31: the skip adds `w2 - MARGIN - cur` to DROPPED, which is the lag less the margin. -/
theorem beTickSkipsForward : Obligations.BeTickSkipsForward := by
  rintro k s w w2 w3 w4 w5 cur hb hadmits rfl hloads hskip hmargin
  refine beTickAfterSkip_of_reaches hadmits ((beTickReaches_skip hb hloads hskip).load fun x hlike hw hctx => ?_)
  rw [← skipped_toNat hmargin, ← satAdd32_eq_ofNat, ← hctx]
  rw [← hctx] at hmargin
  exact run_beSkip_move k hlike hw hmargin

/-- Settles O32. -/
theorem beTickNeverSkipsBackward : Obligations.BeTickNeverSkipsBackward := by
  rintro k s w w2 w3 w4 w5 cur hb hadmits rfl hloads - hskip hmargin
  refine beTickAfterSkip_of_reaches hadmits
    ((beTickReaches_skip hb hloads hskip).pass (ofContexts_ctx k _) fun x hlike hw hctx => ?_)
  rw [← hctx] at hmargin
  exact run_beSkip_stay k hlike hw (BitVec.not_lt.2 hmargin)

end Sys2Proof.Machine
end

section
/-!
PROOFS of O34 and O35 (no best-effort command faults, and only BE_INIT lowers DROPPED); 42_be_consumer.md R263, R264. Both are rules on
the entries of a command, for `command_keeps`; a step is the run of a command or changes nothing that `KeptOutside` speaks of.
-/

namespace Sys2Proof.Machine

/-! ### O34: no fault -/

/-- An entry of a best-effort command (42_be_consumer.md R260 to R262). -/
def Op.bestEffort : Op → Bool
  | .beInit _ _ _ => true
  | .beLag _ => true
  | .beSkip _ => true
  | .beAgain _ => true
  | .beJump _ => true
  | .readLoad _ (.be _ _) => true
  | .slotCopy _ (.be _ _) => true
  | _ => false

theorem closed_bestEffort : Closed fun op => op.bestEffort = true := by
  apply closed_of
  case h1 =>
    intro i r h
    cases r with
    | be k skipped => rfl
    | _ => cases h
  case h10 => rintro (⟨i, k, h⟩ | ⟨k, h⟩ | ⟨k, h⟩) <;> cases h
  all_goals simp [Op.bestEffort]

/-- What O34 asks of a command: best-effort entries, nothing done before them, and no right to answer FAULT. -/
structure IsBestEffort (i : Instr) : Prop where
  opening : ∀ o, Machine.opening i o → o.bestEffort = true
  body : ∀ s, (bodyOf s i).2 = s
  noFault : ¬ mayFault i

theorem isBestEffort_of_mem {i : Instr} {k : CtxIdx} {a b : Word64} (h : i ∈ [.beInit k a b, .beTick k, .beDropped k]) :
    IsBestEffort i := by
  simp only [List.mem_cons, List.not_mem_nil, or_false] at h
  rcases h with rfl | rfl | rfl <;>
    exact ⟨fun o ho => by cases ho <;> rfl, fun _ => rfl, by rintro (⟨_, h⟩ | ⟨_, _, h⟩) <;> cases h⟩

theorem quiet_of_bestEffort {op : Op} (h : op.bestEffort = true) : op.writesStream = false ∧ op.writesFault = false := by
  cases op with
  | beInit _ _ _ | beLag _ | beSkip _ | beAgain _ | beJump _ | readLoad _ _ | slotCopy _ _ => exact ⟨rfl, rfl⟩
  | _ => cases h

/-- No run of a best-effort command writes the fault record. -/
theorem sameFault_of_bestEffort {i : Instr} {g : Agent} {s t : State} (hi : IsBestEffort i) (h : Runs g i s t) : SameFault s t :=
  command_keeps (P := fun op => op.bestEffort = true) (I := SameFault s)
    ⟨fun _ _ _ h => h, fun _ _ _ h => h, fun _ _ _ h => h, fun _ h => h⟩ closed_bestEffort (fun _ => hi.opening)
    (fun u _ hu => (hi.body u).symm ▸ hu)
    (fun op th u hop ⟨h1, h2, h3, h4⟩ =>
      have ⟨k1, k2, k3, k4⟩ := perform_fault op g th u (quiet_of_bestEffort hop).2
      ⟨k1.trans h1, k2.trans h2, k3.trans h3, k4.trans h4⟩)
    ⟨rfl, rfl, rfl, rfl⟩ h

/-- No load touches a response. -/
theorem afterLoad_response {s u : State} {a : Agent} (h : s.AfterLoad a u) (b : Agent) :
    (u.port b).response = (s.port b).response := by
  have hset : ∀ p : Port, p.response = (s.port a).response → ((s.setPort a p).port b).response = (s.port b).response := by
    intro p hp
    by_cases hb : b = a
    · subst hb; rw [State.port_setPort_same, hp]
    · rw [State.port_setPort_other s p hb]
  cases h with
  | none => rfl
  | w | active | code | data | count => exact hset _ rfl

/-- No entry of a best-effort command touches a response. -/
theorem perform_response {op : Op} (h : op.bestEffort = true) (a : Agent) (th : Thread) (s : State) (b : Agent) :
    ((op.perform a th s).2.port b).response = (s.port b).response := by
  obtain ⟨hstream, hfault⟩ := quiet_of_bestEffort h
  obtain ⟨u, hload, hports⟩ := perform_ports a th s hstream hfault
  rw [State.port_congr hports, afterLoad_response hload]

/-- Agent `g` has been answered in `t`, not with FAULT; or its command is still in progress and its port shows the response it showed
in `s`. -/
def AnswersNoFault (g : Agent) (s t : State) : Prop :=
  (∃ r, (t.port g).response = some r ∧ r.kind ≠ .fault) ∨
    (t.port g).thread ≠ none ∧ (t.port g).response = (s.port g).response

theorem answersNoFault_drive {i : Instr} {g : Agent} {n : Nat} {th : Thread} {s : State} (hi : IsBestEffort i) (hleft : th.isLeftOf i) :
    AnswersNoFault g s (drive g n th s) := by
  obtain ⟨th', u, ⟨⟨-, hkind⟩, hresponse⟩, hend⟩ := drive_induct g
    (fun th u => th.isLeftOf i ∧ (u.port g).response = (s.port g).response) (fun _ _ h => h)
    (fun op rest th u hops ⟨hleft, hu⟩ => by
      have hop := mayBeLeft_closed closed_bestEffort hi.opening hleft.1 op (by rw [hops]; exact List.mem_cons_self)
      exact ⟨isLeftOf_step hops hleft, (perform_response hop g _ u g).trans hu⟩)
    n th s ⟨hleft, rfl⟩
  rcases hend with ⟨-, hfinish⟩ | hpark
  · exact .inl ⟨_, by rw [hfinish, State.port_finish_same], fun hfault => hi.noFault (hkind hfault)⟩
  · exact .inr (by rw [hpark, State.port_park_same]; exact ⟨nofun, hresponse⟩)

theorem answersNoFault_resume {i : Instr} {g : Agent} {th : Thread} {s : State} (hi : IsBestEffort i) (hleft : th.isLeftOf i) :
    AnswersNoFault g s (s.resume g th) := by
  have hdrive := answersNoFault_drive (g := g) (n := sliceFuel) (s := s.setPort g { s.port g with thread := none }) hi hleft
  rwa [AnswersNoFault, State.port_setPort_same] at hdrive

/-- A best-effort command issued is refused, or runs. -/
theorem answersNoFault_exec {i : Instr} {s t : State} (hi : IsBestEffort i) (h : exec i s = .next t) : AnswersNoFault s.issuer s t := by
  rcases exec_cases i s t h with ⟨st, -, rfl⟩ | ⟨-, rfl⟩
  · exact .inl ⟨errorResponse st, by rw [State.port_respond_same], nofun⟩
  · rw [hi.body s]
    exact answersNoFault_drive hi (body_left s i)

/-- A command that is not switched out is not in progress any more. -/
theorem idle_of_unlimited {i : Instr} {s t : State} (hb : s.unlimited) (h : exec i s = .next t) :
    (t.port s.issuer).thread = none := by
  rcases exec_cases i s t h with ⟨st, -, rfl⟩ | ⟨-, rfl⟩
  · rw [State.port_respond_same]
  · obtain ⟨th, u, hend⟩ := drive_finishes s.issuer sliceFuel _ _ (bodyOf_unlimited s i hb) (bodyOf_weight s i)
    rw [hend, State.port_finish_same]

/-- Settles O34: the entries of a best-effort command neither write the fault record nor answer FAULT. -/
theorem bestEffortNeverFaults : Obligations.BestEffortNeverFaults := by
  intro i k a b s t hmem
  have hi := isBestEffort_of_mem hmem
  refine ⟨fun hexec => ⟨sameFault_of_bestEffort hi (.inl ⟨rfl, hexec⟩), fun hb => ?_⟩, fun g hnext hstep =>
    ⟨sameFault_of_bestEffort hi (.inr ⟨hnext, hstep⟩), ?_⟩⟩
  · exact (answersNoFault_exec hi hexec).resolve_right fun h => h.1 (idle_of_unlimited hb hexec)
  · have hanswers : AnswersNoFault g s t := by
      rcases step_cases s t g i hnext hstep with ⟨slice, rest, cs, rfl, -, hexec⟩ | ⟨slice, rest, th, -, -, hleft, -, rfl⟩
      · exact answersNoFault_exec hi hexec
      · exact answersNoFault_resume (s := s.serving slice rest) hi hleft
    exact hanswers.symm.imp_left And.right

/-! ### O35: the drop counter -/

/-- No entry but the BE_INIT of context `k` lowers its drop counter: a skip and a jump add to it, saturating. -/
theorem dropped_le_perform {op : Op} {k : CtxIdx} (h : ∀ thr margin, op ≠ .beInit k thr margin) (a : Agent) (th : Thread) (s : State) :
    (s.ctx k).dropped ≤ ((op.perform a th s).2.ctx k).dropped := by
  by_cases hwritten : op.ctxWritten = some k
  case neg => rw [perform_ctx op a th s k hwritten]; exact BitVec.le_refl _
  have hset : ∀ (u : State) (c : Context), (s.ctx k).dropped ≤ c.dropped → (s.ctx k).dropped ≤ ((u.setCtx k c).ctx k).dropped := by
    intro u c hc
    rwa [State.ctx_setCtx_same]
  have hkept : (s.ctx k).dropped ≤ (s.ctx k).dropped := BitVec.le_refl _
  cases op with
  | slotCopy i r =>
    obtain ⟨d, hcopy⟩ := copySlot_frame s th.overlapped i
    simp only [Op.perform, runSlotCopy_eq, hcopy]
    cases r with
    | plain => cases hwritten
    | hrt j | be j skipped => cases hwritten; exact hset _ _ hkept
  | hrtInit j _ | hrtResync j => cases hwritten; exact hset _ _ hkept
  | beInit j thr margin => cases hwritten; exact absurd rfl (h thr margin)
  | beSkip j =>
    cases hwritten
    simp only [Op.perform, runBeSkip]
    split
    · exact hset _ _ (le_satAdd32 _ _)
    · exact hkept
  | beJump j => cases hwritten; exact hset _ _ (le_satAdd32 _ _)
  | _ => cases hwritten

/-- Nothing unfolds to a BE_INIT. -/
theorem closed_noBeInit (k : CtxIdx) : Closed fun op => ∀ thr margin, op ≠ .beInit k thr margin := by
  apply closed_of <;> simp

theorem opening_noBeInit {i : Instr} {k : CtxIdx} {o : Op} (hi : ∀ a b, i ≠ .beInit k a b) (h : opening i o) :
    ∀ thr margin, o ≠ .beInit k thr margin := by
  rintro thr margin rfl
  cases i with
  | beInit j a b => cases h; exact hi a b rfl
  | push _ | pushRaw _ | flush | fltClear => cases h
  | fltSet _ _ => cases h.1
  | strmInit => rcases h with h | h <;> cases h
  | prodTick _ _ => rcases h with h | h | h | ⟨x, h⟩ <;> cases h
  | _ => cases h

/-- No run of a command but a BE_INIT of context `k` lowers its drop counter. -/
theorem dropped_le_of_runs {i : Instr} {g : Agent} {k : CtxIdx} {s t : State} (hi : ∀ a b, i ≠ .beInit k a b) (h : Runs g i s t) :
    (s.ctx k).dropped ≤ (t.ctx k).dropped := by
  refine command_keeps (P := fun op => ∀ thr margin, op ≠ .beInit k thr margin) (I := fun u => (s.ctx k).dropped ≤ (u.ctx k).dropped)
    ⟨fun _ _ _ h => h, fun _ _ _ h => h, fun _ _ _ h => h, fun _ h => h⟩ (closed_noBeInit k) (fun _ _ => opening_noBeInit hi)
    (fun u _ hu => ?_) (fun op th u hop hu => BitVec.le_trans hu (dropped_le_perform hop g th u)) (BitVec.le_refl _) h
  obtain ⟨n, f, hbody⟩ := bodyOf_frame u i
  rw [hbody]; exact hu

theorem serve_illegal {s : State} {slice : Slice} {c : Command} {cs : List Command} {e : DecodeError}
    (hidle : (s.port slice.agent).thread = none) (hinbox : s.inbox slice.agent = c :: cs) (hdecode : decode c = .error e) :
    serve slice s = .next (s.setInbox slice.agent cs).answerIllegal := by
  simp only [serve, hidle, hinbox, hdecode]

/-- A step that is no reset runs a command, or keeps whatever does not depend on the ports, the queues and the schedule. -/
theorem step_runs_or_keeps {s t : State} (howned : s.threadsOwned) (hreset : ¬ s.resetsNext) (hstep : step s = .next t) :
    (∃ g i, s.nextRuns g i) ∨ ∀ I, KeptOutside I → I s → I t := by
  cases hturns : s.turns with
  | nil =>
    rw [step, hturns] at hstep
    cases hstep
    exact .inr fun _ _ hs => hs
  | cons turn rest =>
    cases turn with
    | reset => exact absurd ⟨rest, hturns⟩ hreset
    | serve slice =>
      cases hport : s.hasPort slice.agent with
      | false =>
        simp only [step, hturns, hport, Bool.false_eq_true, if_false] at hstep
        cases hstep
      | true =>
        cases hthread : (s.port slice.agent).thread with
        | some th =>
          obtain ⟨i, hleft⟩ := howned _ th hthread
          exact .inl ⟨_, i, slice, rest, hturns, rfl, hport, by simp only [hthread]; exact hleft⟩
        | none =>
          cases hinbox : s.inbox slice.agent with
          | nil =>
            rw [step_serve hturns hport, serve_idle (s := s.serving slice rest) hthread hinbox] at hstep
            cases hstep
            exact .inr fun _ hI hs => hI.serving _ _ _ hs
          | cons c cs =>
            cases hdecode : decode c with
            | ok i =>
              exact .inl ⟨_, i, slice, rest, hturns, rfl, hport, by simp only [hthread]; exact ⟨c, cs, hinbox, hdecode⟩⟩
            | error _ =>
              rw [step_serve hturns hport, serve_illegal (s := s.serving slice rest) hthread hinbox hdecode] at hstep
              cases hstep
              exact .inr fun _ hI hs => hI.port _ _ _ (hI.inbox _ _ _ (hI.serving _ _ _ hs))

/-- Settles O35. -/
theorem droppedNeverDecreases : Obligations.DroppedNeverDecreases := by
  intro s t k
  refine ⟨fun i hi hexec => dropped_le_of_runs hi (.inl ⟨rfl, hexec⟩), fun howned hreset hnext hstep => ?_⟩
  rcases step_runs_or_keeps howned hreset hstep with ⟨g, i, hruns⟩ | hkeeps
  · exact dropped_le_of_runs (fun a b hi => hnext g a b (hi ▸ hruns)) (.inr ⟨hruns, hstep⟩)
  · exact hkeeps (fun u => (s.ctx k).dropped ≤ (u.ctx k).dropped)
      ⟨fun _ _ _ h => h, fun _ _ _ h => h, fun _ _ _ h => h, fun _ h => h⟩ (BitVec.le_refl _)

end Sys2Proof.Machine
end
section
/-!
PROOFS of O36 and O37 (what FLT_SET and FLT_CLEAR leave; 43_fault.md R281 to R285), of O39 (a fault is sticky; R290) and of O40 (which
commands write the fault record; R292). The last two are rules on the entries of a command: which may clear ACTIVE, and which may write
the record or come to write it.
-/

namespace Sys2Proof.Machine

/-! ### O36: FLT_SET -/

section
variable {s : State} {a : Agent} {code : BitVec 8} {data : Word32} {r : Response}

/-- An answered FaultSet that leaves the outside alone changes nothing but the fault record and its agent's port. -/
theorem sameButFault_faultSet (houtside : SameOutside s ((s.faultSet a code data).respond a r)) :
    SameButFault s ((s.faultSet a code data).respond a r) := by
  refine ⟨⟨?_, ?_, ?_, ?_, ?_⟩, ?_, ?_, ?_, houtside, ?_⟩ <;> simp [State.faultSet]

/-- It has recorded the fault, and the pins follow ACTIVE. -/
theorem recordedFault_faultSet (houtside : SameOutside s ((s.faultSet a code data).respond a r)) :
    RecordedFault code data s ((s.faultSet a code data).respond a r) := by
  have hactive : ((s.faultSet a code data).respond a r).active.cur = 1 := rfl
  obtain ⟨htx, haudio, hpin⟩ := pins_of_active hactive
  exact ⟨hactive, rfl, rfl, rfl, htx, haudio, hpin, sameButFault_faultSet houtside⟩

end

/-- Settles O36. -/
theorem fltSetRecordsTheFault : Obligations.FltSetRecordsTheFault := by
  intro a b s hb hadmits
  have hexec := exec_fltSet hb hadmits
  exact ends_of_exec hexec (recordedFault_faultSet (sameOutside_of_exec (i := .fltSet a b) nofun hexec))

/-! ### O37: FLT_CLEAR -/

/-- The block after a whole `FaultClear()` of agent `a` (43_fault.md R284). -/
def State.faultClear (s : State) (a : Agent) : State :=
  ((s.relStoreActive a false).rlxStoreCode a 0#8).rlxStoreData a 0#32

/-- The entries of a FaultClear whose agent is not switched out are that state. -/
theorem run_faultClearOps (a : Agent) (n : Nat) (kd : Kind) (v : Word64) (o : Bool) (s : State) (hb : s.turn.budget = none) :
    drive a (n + 3) ⟨faultClearOps, kd, v, o⟩ s = drive a n ⟨[], kd, v, o⟩ (s.faultClear a) := by
  calc drive a (n + 3) ⟨[.storeActive false, .storeCode 0#8, .storeData 0#32], kd, v, o⟩ s
      = drive a (n + 2) ⟨[.storeCode 0#8, .storeData 0#32], kd, v, o⟩ (s.relStoreActive a false) :=
        run_op _ _ _ _ _ _ _ _ hb
    _ = drive a (n + 1) ⟨[.storeData 0#32], kd, v, o⟩ ((s.relStoreActive a false).rlxStoreCode a 0#8) :=
        run_op _ _ _ _ _ _ _ _ hb
    _ = drive a n ⟨[], kd, v, o⟩ (s.faultClear a) := run_op _ _ _ _ _ _ _ _ hb

theorem exec_fltClear {s : State} (hb : s.unlimited) (hissuer : s.issuer = .operator) :
    exec .fltClear s = .next ((s.faultClear s.issuer).respond s.issuer (okResponse .ok 0)) := by
  rw [exec_admitted s .fltClear ⟨hissuer, id, id, rfl, id⟩]
  exact congrArg _ ((run_faultClearOps s.issuer 37 .ok 0 false s hb).trans (run_done _ _ _ _ _ _))

/-- Without a fault TX_KEY is the latch (45_producer.md R342). -/
theorem pins_of_inactive {t : State} (h : t.active.cur = 0) :
    t.txKey = t.outLatch ∧ t.audioMute = false ∧ t.faultPin = false := by
  simp [State.txKey, State.audioMute, State.faultPin, h]

/-- An answered FaultClear that leaves the outside alone changes nothing but the fault record and its agent's port. -/
theorem sameButFault_faultClear {s : State} {a : Agent} {r : Response} (houtside : SameOutside s ((s.faultClear a).respond a r)) :
    SameButFault s ((s.faultClear a).respond a r) := by
  refine ⟨⟨?_, ?_, ?_, ?_, ?_⟩, ?_, ?_, ?_, houtside, ?_⟩ <;> simp [State.faultClear]

/-- Settles O37: the state that a FaultClear leaves has no fault, and the pins follow ACTIVE. -/
theorem fltClearKeepsTheCount : Obligations.FltClearKeepsTheCount := by
  intro s hb hissuer
  have hexec := exec_fltClear hb hissuer
  obtain ⟨hstream, hctxs, hfsm, hlatch, hrest⟩ := sameButFault_faultClear (sameOutside_of_exec (i := .fltClear) nofun hexec)
  have hactive : ((s.faultClear s.issuer).respond s.issuer (okResponse .ok 0)).active.cur = 0 := rfl
  obtain ⟨htx, haudio, hpin⟩ := pins_of_inactive hactive
  exact ends_of_exec hexec ⟨hactive, rfl, rfl, rfl, htx.trans hlatch, haudio, hpin, hstream, hctxs, hfsm, hlatch, hrest⟩

/-! ### O39: a fault is sticky -/

theorem keptOutside_active : KeptOutside fun u => u.active.cur = 1 :=
  ⟨fun _ _ _ h => h, fun _ _ _ h => h, fun _ _ _ h => h, fun _ h => h⟩

/-- Nothing unfolds to the store that clears ACTIVE. -/
theorem closed_noClear : Closed fun op => op ≠ .storeActive false := by
  apply closed_of <;> simp

/-- Only FLT_CLEAR starts with the store that clears ACTIVE. -/
theorem opening_noClear {i : Instr} {o : Op} (hi : i ≠ .fltClear) (h : opening i o) : o ≠ .storeActive false := by
  rintro rfl
  cases i with
  | fltClear => exact hi rfl
  | fltSet _ _ => exact h.2 rfl
  | push _ | pushRaw _ | flush => cases h
  | strmInit => rcases h with h | h <;> cases h
  | prodTick _ _ => rcases h with h | h | h | ⟨x, h⟩ <;> cases h
  | _ => cases h

/-- Every other entry keeps ACTIVE set: it leaves ACTIVE alone, or sets it. -/
theorem perform_active {op : Op} (h : op ≠ .storeActive false) (a : Agent) (th : Thread) {s : State} (hs : s.active.cur = 1) :
    (op.perform a th s).2.active.cur = 1 := by
  cases hfault : op.writesFault with
  | false =>
    obtain ⟨hactive, -⟩ := perform_fault op a th s hfault
    rw [hactive]; exact hs
  | true =>
    cases op with
    | storeCode _ | storeData _ | countFault => exact hs
    | storeActive b =>
      cases b with
      | false => exact absurd rfl h
      | true => rfl
    | _ => cases hfault

/-- No issued command clears ACTIVE but an operator's FLT_CLEAR: another agent's is refused (60_exceptions.md R410). -/
theorem active_of_exec {i : Instr} {s t : State} (hi : ¬ (i = .fltClear ∧ s.issuer = .operator)) (hs : s.active.cur = 1)
    (h : exec i s = .next t) : t.active.cur = 1 := by
  refine exec_keeps keptOutside_active closed_noClear (fun hadmits o => opening_noClear ?_) (fun _ => ?_)
    (fun op th u hop hu => perform_active hop s.issuer th hu) hs h
  · rintro rfl
    obtain ⟨hrole, -⟩ := hadmits
    exact hi ⟨rfl, hrole⟩
  · obtain ⟨n, f, hbody⟩ := bodyOf_frame s i
    rw [hbody]; exact hs

/-- What is left of a command keeps what its entries keep. -/
theorem resume_keeps {P : Op → Prop} {I : State → Prop} (hI : KeptOutside I) (hP : Closed P) {g : Agent} {th : Thread} {s : State}
    (hentries : ∀ o ∈ th.ops, P o) (hperform : ∀ op th u, P op → I u → I (op.perform g th u).2) (hs : I s) :
    I (s.resume g th) := by
  obtain ⟨th', u, ⟨-, hu⟩, ⟨-, hend⟩ | hend⟩ := drive_induct g (fun th u => (∀ o ∈ th.ops, P o) ∧ I u)
    (fun _ u ⟨hentries, hu⟩ => ⟨hentries, hI.spend u hu⟩)
    (fun op rest th u hops ⟨hentries, hu⟩ => ⟨perform_closed P hP op rest g th u hops hentries,
      hperform op _ u (hentries op (by rw [hops]; exact List.mem_cons_self)) hu⟩)
    sliceFuel th (s.setPort g { s.port g with thread := none }) ⟨hentries, hI.port _ _ _ hs⟩
  · rw [State.resume, hend]; exact hI.port _ _ _ hu
  · rw [State.resume, hend]; exact hI.port _ _ _ hu

/-- Only what is left of an FLT_CLEAR has still to clear ACTIVE. -/
theorem eq_fltClear_of_left {i : Instr} {ops : List Op} (h : mayBeLeft i ops) (hmem : .storeActive false ∈ ops) : i = .fltClear := by
  by_contra hi
  exact mayBeLeft_closed closed_noClear (fun _ => opening_noClear hi) h _ hmem rfl

/-- A step that runs an FLT_CLEAR which has still to clear ACTIVE is one that `clearsNext` names. -/
theorem clearsNext_of_left {s : State} {i : Instr} (h : s.nextRuns .operator i) (hmem : .storeActive false ∈ s.opsLeft .operator) :
    s.clearsNext := by
  obtain ⟨slice, rest, hturns, hagent, -, -⟩ := h
  exact ⟨slice, rest, hturns, hagent, .inl hmem⟩

theorem clearsNext_of_issued {s : State} (h : s.nextRuns .operator .fltClear) (hidle : (s.port .operator).thread = none) :
    s.clearsNext := by
  obtain ⟨slice, rest, hturns, hagent, -, hcommand⟩ := h
  rw [hidle] at hcommand
  exact ⟨slice, rest, hturns, hagent, .inr ⟨hidle, hcommand⟩⟩

/-- A step that runs a command keeps ACTIVE set, unless it is to clear it. -/
theorem active_of_nextRuns {g : Agent} {i : Instr} {s t : State} (hclear : ¬ s.clearsNext) (hs : s.active.cur = 1)
    (hruns : s.nextRuns g i) (hstep : step s = .next t) : t.active.cur = 1 := by
  rcases step_cases s t g i hruns hstep with ⟨slice, rest, cs, rfl, hidle, hexec⟩ | ⟨slice, rest, th, -, hth, hleft, hrole, rfl⟩
  · refine active_of_exec (s := (s.serving slice rest).setInbox slice.agent cs) ?_ hs hexec
    rintro ⟨rfl, hoperator : slice.agent = .operator⟩
    rw [hoperator] at hruns hidle
    exact hclear (clearsNext_of_issued hruns hidle)
  · refine resume_keeps keptOutside_active closed_noClear ?_ (fun op th u hop hu => perform_active hop g th hu)
      (s := s.serving slice rest) hs
    rintro _ hmem rfl
    obtain rfl := eq_fltClear_of_left hleft.1 hmem
    obtain rfl : g = .operator := hrole
    exact hclear (clearsNext_of_left hruns (opsLeft_of_thread hth ▸ hmem))

/-- Settles O39. -/
theorem faultIsSticky : Obligations.FaultIsSticky := by
  intro s t hs
  refine ⟨fun i hi hexec => active_of_exec hi hs hexec, fun howned hreset hclear hstep => ?_⟩
  rcases step_runs_or_keeps howned hreset hstep with ⟨g, i, hruns⟩ | hkeeps
  · exact active_of_nextRuns hclear hs hruns hstep
  · exact hkeeps _ keptOutside_active hs

/-! ### O40: the writers of the fault record -/

/-- An entry that neither writes the fault record nor is a test of a hard-RT tick, which may come to write it. -/
def Op.leavesFault : Op → Bool
  | .storeCode _ => false
  | .storeData _ => false
  | .countFault => false
  | .storeActive _ => false
  | .hrtFlag _ => false
  | .hrtLag _ => false
  | .hrtOverrun _ => false
  | .readLoad _ (.hrt _) => false
  | _ => true

theorem closed_leavesFault : Closed fun op => op.leavesFault = true := by
  apply closed_of
  case h10 => rintro (⟨i, k, h⟩ | ⟨k, h⟩ | ⟨k, h⟩) <;> cases h
  case h2 | h3 => exact fun _ h => by cases h
  case h4 => exact fun _ _ h => by cases h
  all_goals intros; rfl

theorem writesFault_of_leavesFault {op : Op} (h : op.leavesFault = true) : op.writesFault = false := by
  cases op with
  | storeCode _ | storeData _ | countFault | storeActive _ => cases h
  | _ => rfl

/-- Every command but the four of 43_fault.md R292 starts with entries that leave the fault record alone. -/
theorem opening_leavesFault {i : Instr} {o : Op} (htick : ∀ k, i ≠ .hrtTick k) (hprod : ∀ a b, i ≠ .prodTick a b)
    (hset : ∀ a b, i ≠ .fltSet a b) (hclear : i ≠ .fltClear) (h : opening i o) : o.leavesFault = true := by
  cases i with
  | hrtTick k => exact absurd rfl (htick k)
  | prodTick a b => exact absurd rfl (hprod a b)
  | fltSet a b => exact absurd rfl (hset a b)
  | fltClear => exact absurd rfl hclear
  | push _ | pushRaw _ | flush =>
    cases o with
    | slotWriteBegin | slotWriteEnd _ | publish | clearIdle | setLast _ => rfl
    | _ => cases h
  | strmInit => rcases h with rfl | rfl <;> rfl
  | beDropped _ | iamCfg _ | iamTick _ _ => cases h
  | _ => cases h; rfl

theorem SameFault.trans {s u t : State} (h : SameFault s u) (k : SameFault u t) : SameFault s t := by
  obtain ⟨h1, h2, h3, h4⟩ := h
  obtain ⟨k1, k2, k3, k4⟩ := k
  exact ⟨k1.trans h1, k2.trans h2, k3.trans h3, k4.trans h4⟩

/-- The preliminary work before a command's first micro-step writes no field of the fault record. -/
theorem bodyOf_fault (s : State) (i : Instr) : SameFault s (bodyOf s i).2 := by
  obtain ⟨n, f, hbody⟩ := bodyOf_frame s i
  rw [hbody]; exact ⟨rfl, rfl, rfl, rfl⟩

/-- No run of a command that starts with such entries writes the fault record. -/
theorem sameFault_of_runs {i : Instr} {g : Agent} {s t : State} (hopening : ∀ o, opening i o → o.leavesFault = true)
    (h : Runs g i s t) : SameFault s t :=
  command_keeps (P := fun op => op.leavesFault = true) (I := SameFault s)
    ⟨fun _ _ _ h => h, fun _ _ _ h => h, fun _ _ _ h => h, fun _ h => h⟩ closed_leavesFault (fun _ => hopening)
    (fun u _ hu => hu.trans (bodyOf_fault u i))
    (fun op th u hop hu => hu.trans (perform_fault op g th u (writesFault_of_leavesFault hop))) ⟨rfl, rfl, rfl, rfl⟩ h

/-- Settles O40. -/
theorem faultRecordHasFourWriters : Obligations.FaultRecordHasFourWriters := by
  intro i s t htick hprod hset hclear
  have hopening : ∀ o, opening i o → o.leavesFault = true := fun _ => opening_leavesFault htick hprod hset hclear
  exact ⟨fun hexec => sameFault_of_runs hopening (.inl ⟨rfl, hexec⟩),
    fun g hnext hstep => sameFault_of_runs hopening (.inr ⟨hnext, hstep⟩)⟩

end Sys2Proof.Machine
end

section
/-!
PROOFS of O42, O44 to O48 and O57: the Iambic Processor (44_iambic.md). Every tick arms the memories and tracks the squeeze, and then does
one of three things: it goes on, ends the element, or evaluates IDLE. There is one equation of the tick for each, and what a tick does is
read from them.
-/

namespace Sys2Proof.Machine

/-! ### O42: the length of a dit -/

/-- The 32 bits of the length lose nothing. -/
theorem ditDuration_toNat (wpm : BitVec 8) : (ditDuration wpm).toNat = 1200000 / wpm.toNat := by
  have hle : 1200000 / wpm.toNat ≤ 1200000 := Nat.div_le_self _ _
  rw [ditDuration, BitVec.toNat_ofNat]
  exact Nat.mod_eq_of_lt (by omega)

/-- Settles O42. -/
theorem ditDurationIsTheFloor : Obligations.DitDurationIsTheFloor := by
  intro wpm hwpm
  have hpos : 0 < wpm.toNat := Nat.pos_of_ne_zero fun h => hwpm (BitVec.eq_of_toNat_eq h)
  rw [ditDuration_toNat]
  exact ⟨Nat.div_mul_le_self _ _, (Nat.div_lt_iff_lt_mul hpos).1 (Nat.lt_succ_self _)⟩

/-- The length of a dit as a time. -/
def Iambic.ditTime (f : Iambic) : Word64 := (ditDuration f.cfg.wpm).zeroExtend 64

theorem ditTime_eq (f : Iambic) : f.ditTime = BitVec.ofNat 64 (1200000 / f.cfg.wpm.toNat) := by
  rw [← ditDuration_toNat]
  exact (BitVec.ofNat_toNat 64 _).symm

theorem three_mul_ditTime (f : Iambic) : 3#64 * f.ditTime = BitVec.ofNat 64 (3 * (1200000 / f.cfg.wpm.toNat)) := by
  rw [ditTime_eq, BitVec.ofNat_mul]

/-! ### O44: IAM_TICK -/

/-- An admitted IAM_TICK runs the tick and answers its sample: it has no micro-step. -/
theorem exec_iamTick {a b : Word64} {s : State} (hadmits : s.admitsCommand (.iamTick a b)) :
    exec (.iamTick a b) s =
      .next (({ s with fsm := s.fsm.tick a (operandPaddles b) } : State).respond s.issuer
        (okResponse .ok (((s.fsm.tick a (operandPaddles b)).output (operandPaddles b)).zeroExtend 64))) := by
  rw [exec_admitted s _ hadmits]
  exact congrArg _ (run_done _ _ _ _ _ _)

/-- Settles O44: the sample is the output of the tick. -/
theorem iamTickAnswersTheSample : Obligations.IamTickAnswersTheSample := by
  intro a b s _ hadmits
  have hexec := exec_iamTick hadmits
  refine ⟨(s.fsm.tick a (operandPaddles b)).output (operandPaddles b), samplePaddles_sampleOf _ _ _ _ _, sampleKey_sampleOf _ _ _ _ _,
    sampleAudio_sampleOf _ _ _ _ _, sampleFlags_sampleOf _ _ _ _ _, samplePayload_sampleOf _ _ _ _ _, output_reservedClear _ _, ?_⟩
  exact ends_of_exec hexec ⟨rfl, ⟨rfl, rfl, rfl, rfl, rfl⟩, ⟨rfl, rfl, rfl, rfl⟩, rfl, rfl,
    sameOutside_of_exec (i := .iamTick a b) nofun hexec, rfl⟩

/-! ### What every tick does first -/

theorem dit_pressed_iff (p : Paddles) : p.getLsbD 0 = true ↔ p = 1 ∨ p = 3 := by revert p; decide

theorem dah_pressed_iff (p : Paddles) : p.getLsbD 1 = true ↔ p = 2 ∨ p = 3 := by revert p; decide

theorem neither_pressed {p : Paddles} (hdit : p ≠ 1) (hdah : p ≠ 2) (hboth : p ≠ 3) : p = 0 := by revert p; decide

/-- The FSM after the memories are armed and the squeeze is tracked (44_iambic.md R303, R304). -/
def Iambic.tracked (f : Iambic) (p : Paddles) : Iambic := (f.arm f.st p).trackSqueeze f.st p

section
variable (f : Iambic) (p : Paddles)

/-- Arming and tracking write the two memories and the squeeze flag alone. -/
theorem tracked_frame : f.tracked p =
    { f with ditMem := (f.tracked p).ditMem, dahMem := (f.tracked p).dahMem, sqz := (f.tracked p).sqz } := by
  unfold Iambic.tracked Iambic.arm
  split <;> rfl

@[simp] theorem tracked_st : (f.tracked p).st = f.st := by rw [tracked_frame]
@[simp] theorem tracked_key : (f.tracked p).key = f.key := by rw [tracked_frame]
@[simp] theorem tracked_deadline : (f.tracked p).deadline = f.deadline := by rw [tracked_frame]
@[simp] theorem tracked_lastEl : (f.tracked p).lastEl = f.lastEl := by rw [tracked_frame]
@[simp] theorem tracked_cfg : (f.tracked p).cfg = f.cfg := by rw [tracked_frame]

theorem tracked_ditMem : (f.tracked p).ditMem = true ↔
    f.ditMem = true ∨ f.st ≠ .idle ∧ (p = 1 ∨ p = 3) ∧ f.cfg.ditMemEn = true := by
  rw [← dit_pressed_iff]
  by_cases hidle : f.st = .idle <;> simp [Iambic.tracked, Iambic.arm, Iambic.trackSqueeze, hidle]

theorem tracked_dahMem : (f.tracked p).dahMem = true ↔
    f.dahMem = true ∨ f.st ≠ .idle ∧ (p = 2 ∨ p = 3) ∧ f.cfg.dahMemEn = true := by
  rw [← dah_pressed_iff]
  by_cases hidle : f.st = .idle <;> simp [Iambic.tracked, Iambic.arm, Iambic.trackSqueeze, hidle]

theorem tracked_sqz : (f.tracked p).sqz = true ↔
    (f.sqz = true ∨ f.st.sending = true ∧ p = 3) ∧ (f.cfg.modeB = true ∨ p = 3) := by
  by_cases hidle : f.st = .idle <;> simp [Iambic.tracked, Iambic.arm, Iambic.trackSqueeze, hidle]

end

theorem sending_iff (st : FsmState) : st.sending = true ↔ st = .sendDit ∨ st = .sendDah := by cases st <;> decide

/-! ### The three equations of the tick -/

section
variable {f : Iambic} {now : Word64} {p : Paddles}

/-- A tick evaluates IDLE if the deadline has brought it there, and else stays where the deadline has brought it (44_iambic.md R302). -/
theorem tick_of_reachDeadline {g : Iambic} (h : (f.tracked p).reachDeadline now f.ditTime = g) :
    f.tick now p = if g.st = .idle then g.startNext now p f.ditTime else g := by
  subst h; rfl

/-- Before the deadline of an element or a gap the tick goes on. -/
theorem tick_before_deadline (hst : f.st ≠ .idle) (hnow : now < f.deadline) : f.tick now p = f.tracked p := by
  have hreach : (f.tracked p).reachDeadline now f.ditTime = f.tracked p := by
    simp [Iambic.reachDeadline, BitVec.not_le.2 hnow]
  rw [tick_of_reachDeadline hreach, tracked_st, if_neg hst]

/-- At its deadline an element ends (44_iambic.md R305). -/
theorem tick_ends_element (hst : f.st.sending = true) (hnow : f.deadline ≤ now) :
    f.tick now p = (f.tracked p).endElement now f.ditTime := by
  have hreach : (f.tracked p).reachDeadline now f.ditTime = (f.tracked p).endElement now f.ditTime := by
    simp [Iambic.reachDeadline, hst, hnow]
  rw [tick_of_reachDeadline hreach]
  exact if_neg nofun

/-- In IDLE, and at the deadline of a gap, the tick evaluates IDLE (44_iambic.md R306, R307). -/
theorem tick_evaluates (hst : f.st = .idle ∨ f.st = .gap ∧ f.deadline ≤ now) :
    f.tick now p = (f.tracked p).endGap.startNext now p f.ditTime := by
  have hreach : (f.tracked p).reachDeadline now f.ditTime = (f.tracked p).endGap := by
    rcases hst with hidle | ⟨hgap, hnow⟩
    · have hkept : (f.tracked p).endGap = f.tracked p := by rw [Iambic.endGap, ← hidle, ← tracked_st f p]
      simp [Iambic.reachDeadline, hidle, hkept, FsmState.sending]
    · simp [Iambic.reachDeadline, hgap, hnow, FsmState.sending]
  rw [tick_of_reachDeadline hreach]
  exact if_pos rfl

/-- Of the three equations one applies. -/
theorem tick_phases (f : Iambic) (now : Word64) : (f.st ≠ .idle ∧ now < f.deadline) ∨ (f.st.sending = true ∧ f.deadline ≤ now) ∨
    (f.st = .idle ∨ f.st = .gap ∧ f.deadline ≤ now) := by
  have hnow : now < f.deadline ∨ f.deadline ≤ now := (em _).imp_right BitVec.not_lt.1
  cases hst : f.st with
  | idle => exact .inr (.inr (.inl rfl))
  | sendDit | sendDah => exact hnow.imp (fun h => ⟨nofun, h⟩) fun h => .inl ⟨rfl, h⟩
  | gap => exact hnow.imp (fun h => ⟨nofun, h⟩) fun h => .inr (.inr ⟨rfl, h⟩)

end

/-! ### O45, O46: before and at the deadline -/

/-- Settles O45. -/
theorem tickBeforeTheDeadlineGoesOn : Obligations.TickBeforeTheDeadlineGoesOn := by
  intro f now p hst hnow
  rw [tick_before_deadline hst hnow]
  have hsending : f.st.sending = true ↔ f.st ≠ .gap := by cases h : f.st <;> simp_all [FsmState.sending]
  refine ⟨tracked_st f p, tracked_key f p, tracked_deadline f p, tracked_lastEl f p, tracked_cfg f p, ?_, ?_, ?_⟩
  · simp only [tracked_ditMem, hst, ne_eq, not_false_eq_true, true_and]
  · simp only [tracked_dahMem, hst, ne_eq, not_false_eq_true, true_and]
  · rw [tracked_sqz, hsending]
    split
    next hp => simp only [hp, and_true, or_true]
    next hp => simp only [hp, and_false, or_false]

/-- Settles O46. -/
theorem tickAtTheDeadlineEndsTheElement : Obligations.TickAtTheDeadlineEndsTheElement := by
  intro f now p hst hnow
  have hsending : f.st.sending = true := (sending_iff f.st).2 hst
  have hidle : f.st ≠ .idle := by rintro h; rw [h] at hsending; cases hsending
  rw [tick_ends_element hsending hnow, ← ditTime_eq]
  refine ⟨rfl, rfl, ?_, rfl, tracked_cfg f p, ?_, ?_, ?_⟩
  · simp only [Iambic.endElement, tracked_st]
  · simp only [Iambic.endElement, tracked_ditMem, hidle, ne_eq, not_false_eq_true, true_and]
  · simp only [Iambic.endElement, tracked_dahMem, hidle, ne_eq, not_false_eq_true, true_and]
  · simp only [Iambic.endElement, tracked_sqz, hsending, true_and]
    rw [← and_or_right, or_comm]

/-! ### O47: the IDLE evaluation -/

theorem opposite_ne_none (e : Element) : opposite e ≠ .none := by cases e <;> nofun

section
variable (f : Iambic) (p : Paddles)

/-- The element that fires (44_iambic.md R308). -/
theorem nextElement_fst : (f.nextElement p).1 =
    if f.ditMem = true then .dit
    else if f.dahMem = true then .dah
    else if f.cfg.modeB = true ∧ f.sqz = true ∧ p ≠ 3 then opposite f.lastEl
    else if p = 3 then opposite f.lastEl
    else if p = 1 then .dit
    else if p = 2 then .dah
    else .none := by
  simp only [Iambic.nextElement, apply_ite Prod.fst, Bool.and_eq_true, bne_iff_ne, and_assoc]
  rfl

/-- The memory that decides is cleared, the dit's first; a decision without one writes the squeeze flag alone. -/
theorem nextElement_snd : (f.nextElement p).2 =
    { f with ditMem := false, dahMem := f.ditMem && f.dahMem, sqz := (f.nextElement p).2.sqz } := by
  obtain ⟨st, deadline, key, lastEl, ditMem, dahMem, sqz, cfg⟩ := f
  unfold Iambic.nextElement
  cases ditMem with
  | true => rfl
  | false =>
    cases dahMem with
    | true => rfl
    | false =>
      repeat' split
      all_goals rfl

/-- The bonus and the fall to IDLE clear the squeeze flag. -/
theorem nextElement_sqz : (f.nextElement p).2.sqz = true ↔ f.sqz = true ∧
    (f.ditMem = true ∨ f.dahMem = true ∨ p = 3 ∨ f.cfg.modeB = false ∧ p ≠ 0) := by
  unfold Iambic.nextElement
  split_ifs with hdit hdah hbonus hboth hp hp'
  · simp [hdit]
  · simp [hdah]
  · simp_all
  · simp [hboth]
  · cases hmode : f.cfg.modeB <;> simp_all
  · cases hmode : f.cfg.modeB <;> simp_all
  · simp [neither_pressed hp hp' hboth, hdit, hdah]

variable {f p}

/-- Nothing fires only when nothing is armed or pressed, and then the squeeze flag is cleared. -/
theorem nextElement_none (h : (f.nextElement p).1 = .none) :
    (f.nextElement p).2 = { f with ditMem := false, dahMem := false, sqz := false } := by
  rw [nextElement_fst] at h
  split_ifs at h with hdit hdah _ hboth hp hp'
  · exact absurd h (opposite_ne_none _)
  · exact absurd h (opposite_ne_none _)
  have hsqz : (f.nextElement p).2.sqz = false := by
    rw [Bool.eq_false_iff, ne_eq, nextElement_sqz]
    simp [hdit, hdah, neither_pressed hp hp' hboth]
  rw [nextElement_snd, hsqz, Bool.eq_false_iff.2 hdit, Bool.false_and]

variable {now d : Word64}

theorem startNext_frame : f.startNext now p d = { (f.nextElement p).2 with
    st := (f.startNext now p d).st, key := (f.startNext now p d).key, deadline := (f.startNext now p d).deadline } := by
  unfold Iambic.startNext
  split <;> simp_all

theorem startNext_cfg : (f.startNext now p d).cfg = f.cfg := by rw [startNext_frame, nextElement_snd]

theorem startNext_lastEl : (f.startNext now p d).lastEl = f.lastEl := by rw [startNext_frame, nextElement_snd]

theorem startNext_ditMem : (f.startNext now p d).ditMem = false := by rw [startNext_frame, nextElement_snd]

theorem startNext_dahMem : (f.startNext now p d).dahMem = (f.ditMem && f.dahMem) := by rw [startNext_frame, nextElement_snd]

theorem startNext_sqz : (f.startNext now p d).sqz = (f.nextElement p).2.sqz := by rw [startNext_frame]

theorem startNext_dit (h : (f.nextElement p).1 = .dit) : f.startNext now p d =
    { (f.nextElement p).2 with st := .sendDit, key := true, deadline := now + d } := by
  unfold Iambic.startNext
  split <;> simp_all

theorem startNext_dah (h : (f.nextElement p).1 = .dah) : f.startNext now p d =
    { (f.nextElement p).2 with st := .sendDah, key := true, deadline := now + 3#64 * d } := by
  unfold Iambic.startNext
  split <;> simp_all

theorem startNext_none (h : (f.nextElement p).1 = .none) : f.startNext now p d = (f.nextElement p).2 := by
  unfold Iambic.startNext
  split <;> simp_all

end

/-- Settles O47: the tick is the evaluation of the tracked FSM, whose memories are `dit` and `dah`. -/
theorem idleEvaluationFollowsThePriorities : Obligations.IdleEvaluationFollowsThePriorities := by
  intro f now p dit dah e hst hdit hdah he
  have hgap : f.st ≠ .idle ↔ f.st = .gap := by rcases hst with h | ⟨h, -⟩ <;> simp [h]
  have hquiet : f.st.sending = false := by rcases hst with h | ⟨h, -⟩ <;> rw [h] <;> rfl
  rw [tick_evaluates hst]
  obtain ⟨g, hg⟩ : ∃ g, g = (f.tracked p).endGap := ⟨_, rfl⟩
  have hgdit : g.ditMem = dit := by rw [Bool.eq_iff_iff, hdit, hg, Iambic.endGap, tracked_ditMem, hgap]
  have hgdah : g.dahMem = dah := by rw [Bool.eq_iff_iff, hdah, hg, Iambic.endGap, tracked_dahMem, hgap]
  have hgsqz : g.sqz = true ↔ f.sqz = true ∧ (f.cfg.modeB = true ∨ p = 3) := by
    rw [hg, Iambic.endGap, tracked_sqz, hquiet]; simp
  have hframe : g = { f with st := .idle, ditMem := g.ditMem, dahMem := g.dahMem, sqz := g.sqz } := by
    rw [hg, Iambic.endGap, tracked_frame]
  have hcfg : g.cfg = f.cfg := by rw [hframe]
  have hlast : g.lastEl = f.lastEl := by rw [hframe]
  have hbonus : g.cfg.modeB = true ∧ g.sqz = true ∧ p ≠ 3 ↔ f.cfg.modeB = true ∧ f.sqz = true ∧ p ≠ 3 := by
    rw [hgsqz, hcfg]
    exact ⟨fun ⟨hmode, ⟨hseen, _⟩, hp⟩ => ⟨hmode, hseen, hp⟩, fun ⟨hmode, hseen, hp⟩ => ⟨hmode, ⟨hseen, .inl hmode⟩, hp⟩⟩
  have hpick : (g.nextElement p).1 = e := by
    rw [he, nextElement_fst, hgdit, hgdah, hlast]
    simp only [hbonus]
  rw [← hg]
  refine ⟨startNext_cfg.trans hcfg, startNext_lastEl.trans hlast, startNext_ditMem, by rw [startNext_dahMem, hgdit, hgdah], ?_, ?_⟩
  · rw [startNext_sqz, nextElement_sqz, hgsqz, hgdit, hgdah, hcfg, Bool.eq_false_iff]
    grind
  · cases e with
    | dit => rw [startNext_dit hpick, ← ditTime_eq]; exact ⟨rfl, rfl, rfl⟩
    | dah => rw [startNext_dah hpick, ← three_mul_ditTime]; exact ⟨rfl, rfl, rfl⟩
    | none => rw [startNext_none hpick, nextElement_none hpick, hframe]; exact ⟨rfl, rfl, rfl, rfl⟩

/-! ### O57: what every tick keeps -/

/-- The IDLE evaluation leaves the key down exactly in the element it starts, and an idle FSM with nothing remembered. -/
theorem startNext_inStep {f : Iambic} {now d : Word64} {p : Paddles} (hidle : f.st = .idle) (hkey : f.key = false) :
    (f.startNext now p d).inStep := by
  cases h : (f.nextElement p).1 with
  | dit => rw [startNext_dit h]; exact ⟨rfl, nofun⟩
  | dah => rw [startNext_dah h]; exact ⟨rfl, nofun⟩
  | none =>
    rw [startNext_none h, nextElement_none h]
    exact ⟨by rw [hkey, hidle]; rfl, fun _ => ⟨rfl, rfl, rfl⟩⟩

/-- Every tick keeps R311. -/
theorem tick_inStep {f : Iambic} (now : Word64) (p : Paddles) (h : f.inStep) : (f.tick now p).inStep := by
  obtain ⟨hkey, -⟩ := h
  rcases tick_phases f now with ⟨hst, hnow⟩ | ⟨hst, hnow⟩ | hst
  · rw [tick_before_deadline hst hnow]
    exact ⟨by rw [tracked_key, tracked_st, hkey], fun hidle => absurd (tracked_st f p ▸ hidle) hst⟩
  · rw [tick_ends_element hst hnow]
    exact ⟨rfl, nofun⟩
  · rw [tick_evaluates hst]
    refine startNext_inStep rfl ?_
    rw [Iambic.endGap, tracked_key, hkey]
    rcases hst with h | ⟨h, -⟩ <;> rw [h] <;> rfl

theorem pushBody_fsm (s : State) (x : Sample) : (s.pushBody x).2.2.fsm = s.fsm := by
  unfold State.pushBody
  split <;> rfl

/-- The preliminary work of every command keeps R311: IAM_CFG writes the configuration alone, and the two ticks tick. -/
theorem bodyOf_inStep (s : State) (i : Instr) (h : s.fsm.inStep) : (bodyOf s i).2.fsm.inStep := by
  cases i with
  | iamCfg a => exact h
  | iamTick a b => exact tick_inStep a _ h
  | push a =>
    change (s.pushBody _).2.2.fsm.inStep
    rw [pushBody_fsm]
    exact h
  | prodTick a b =>
    change (s.prodTickBody a (operandPaddles b)).2.fsm.inStep
    rw [prodTickBody_eq]
    change (State.pushBody _ _).2.2.fsm.inStep
    rw [pushBody_fsm]
    exact tick_inStep a _ h
  | _ => exact h

theorem fsmInStep_kept : KeptWith (fun _ _ _ => True) fun s => s.fsm.inStep where
  reset _ _ _ := ⟨rfl, fun _ => ⟨rfl, rfl, rfl⟩⟩
  serving _ _ _ h := h
  inbox _ _ _ h := h
  port _ _ _ h := h
  body := bodyOf_inStep
  spend _ h := h
  perform op _ a _ s _ _ h := by rw [perform_fsm]; exact h

/-- Nothing is required of the commands in progress. -/
theorem threadRule_true : ThreadRule fun _ _ _ => True := by
  constructor <;> intros <;> trivial

/-- Settles O57. -/
theorem stepKeepsTheFsmInStep : Obligations.StepKeepsTheFsmInStep := by
  intro s t hs hstep
  obtain ⟨-, ht⟩ := (stepRule_of_kept threadRule_true fsmInStep_kept).step ⟨fun _ _ _ => trivial, hs⟩ hstep
  exact ht

/-! ### O48: the squeeze flag in Mode A -/

/-- The two FSMs differ at most in the squeeze flag. -/
def Iambic.SameButSqz (f g : Iambic) : Prop := ∃ y, g = { f with sqz := y }

section
variable {f g : Iambic} {now d : Word64} {p : Paddles}

theorem Iambic.SameButSqz.tracked (h : f.SameButSqz g) : (f.tracked p).SameButSqz (g.tracked p) := by
  obtain ⟨y, rfl⟩ := h
  unfold Iambic.tracked Iambic.arm
  split <;> exact ⟨_, rfl⟩

theorem Iambic.SameButSqz.endElement (h : f.SameButSqz g) : (f.endElement now d).SameButSqz (g.endElement now d) := by
  obtain ⟨y, rfl⟩ := h
  exact ⟨y, rfl⟩

theorem Iambic.SameButSqz.endGap (h : f.SameButSqz g) : f.endGap.SameButSqz g.endGap := by
  obtain ⟨y, rfl⟩ := h
  exact ⟨y, rfl⟩

/-- In Mode A the decision does not read the flag, for only the bonus does (44_iambic.md R310). -/
theorem Iambic.SameButSqz.nextElement (hmode : f.cfg.modeB = false) (h : f.SameButSqz g) :
    (g.nextElement p).1 = (f.nextElement p).1 ∧ (f.nextElement p).2.SameButSqz (g.nextElement p).2 := by
  obtain ⟨y, rfl⟩ := h
  constructor
  · simp [nextElement_fst, hmode]
  · refine ⟨({ f with sqz := y }.nextElement p).2.sqz, ?_⟩
    rw [nextElement_snd, nextElement_snd f p]

theorem Iambic.SameButSqz.startNext (hmode : f.cfg.modeB = false) (h : f.SameButSqz g) :
    (f.startNext now p d).SameButSqz (g.startNext now p d) := by
  obtain ⟨hpick, y, hnext⟩ := Iambic.SameButSqz.nextElement (p := p) hmode h
  refine ⟨y, ?_⟩
  cases hf : (f.nextElement p).1 with
  | dit => rw [startNext_dit hf, startNext_dit (hpick.trans hf), hnext]
  | dah => rw [startNext_dah hf, startNext_dah (hpick.trans hf), hnext]
  | none => rw [startNext_none hf, startNext_none (hpick.trans hf), hnext]

/-- So the tick of Mode A does not read the flag. -/
theorem Iambic.SameButSqz.tick (hmode : f.cfg.modeB = false) (h : f.SameButSqz g) : (f.tick now p).SameButSqz (g.tick now p) := by
  have htracked := Iambic.SameButSqz.tracked (p := p) h
  obtain ⟨y, rfl⟩ := h
  rcases tick_phases f now with ⟨hst, hnow⟩ | ⟨hst, hnow⟩ | hst
  · rw [tick_before_deadline hst hnow, tick_before_deadline (f := { f with sqz := y }) hst hnow]
    exact htracked
  · rw [tick_ends_element hst hnow, tick_ends_element (f := { f with sqz := y }) hst hnow]
    exact htracked.endElement
  · rw [tick_evaluates hst, tick_evaluates (f := { f with sqz := y }) hst]
    exact Iambic.SameButSqz.startNext (by rw [Iambic.endGap, tracked_cfg]; exact hmode) htracked.endGap

end

/-- Settles O48: the sample takes the key of the FSM alone. -/
theorem modeASqueezeFlagIsUnobservable : Obligations.ModeASqueezeFlagIsUnobservable := by
  intro f now p x hmode
  obtain ⟨y, hy⟩ : (f.tick now p).SameButSqz ({ f with sqz := x }.tick now p) := Iambic.SameButSqz.tick hmode ⟨x, rfl⟩
  rw [hy]
  exact ⟨rfl, rfl⟩

end Sys2Proof.Machine
end

section
/-!
PROOFS of O49, O50 and O51: the producer tick (45_producer.md R340 to R346). A PROD_TICK is a push (`State.afterTickPush`), the entries of
a hard-RT tick on context 0, and the latch with the fault check (`State.checked`). O49 composes the three whatever the hard-RT tick does;
O50 and O51 follow it where the load of ACTIVE returns 1, and where every load returns the latest value.
-/

namespace Sys2Proof.Machine

/-! ### One entry -/

/-- An entry known to give `th` and `u` brings a command whose agent is not switched out there. -/
theorem run_entry {a : Agent} {n : Nat} {op : Op} {rest : List Op} {kd : Kind} {v : Word64} {o : Bool} {s u : State} {th : Thread}
    (hb : s.unlimited) (h : op.perform a ⟨rest, kd, v, o⟩ s = (th, u)) :
    drive a (n + 1) ⟨op :: rest, kd, v, o⟩ s = drive a n th u := by
  rw [run_op _ _ _ _ _ _ _ _ hb, h]

/-! ### The push of a sample -/

/-- The block after a whole push of the sample `x` by agent `a` (40_stream.md R207). -/
def State.afterPush (s : State) (a : Agent) (x : Sample) : State :=
  if sameSample x s.last = true then s.countIdle else s.pushed a (annotate x s.last)

/-- The slot writes of a push of the sample `x` (40_stream.md R203, R207). -/
def pushWrites (s : State) (x : Sample) : List Sample :=
  if sameSample x s.last = true then [] else pendingMarker s ++ [annotate x s.last]

section
variable {s : State} {a : Agent} {x : Sample}

theorem afterPush_of_same (h : sameSample x s.last = true) : s.afterPush a x = s.countIdle := if_pos h

theorem afterPush_of_changed (h : sameSample x s.last = false) : s.afterPush a x = s.pushed a (annotate x s.last) :=
  if_neg (Bool.eq_false_iff.1 h)

theorem afterPush_wrote : Wrote (pushWrites s x) s (s.afterPush s.issuer x) := by
  cases h : sameSample x s.last with
  | true =>
    rw [afterPush_of_same h, pushWrites, if_pos h]
    exact Wrote.refl.setIdleCnt (satInc16 s.idleCnt)
  | false =>
    rw [afterPush_of_changed h, pushWrites, if_neg (Bool.eq_false_iff.1 h)]
    exact ((flushed_wrote s).wroteOne _).setLast _

theorem operandSample_zeroExtend (x : Sample) : operandSample (x.zeroExtend 64) = x :=
  BitVec.eq_of_getLsbD_eq fun i hi => by
    rw [operandSample, BitVec.getLsbD_extractLsb']
    simp [hi, show i < 64 by omega]

/-- A sample with no reserved bit is a legal operand of PUSH (60_exceptions.md R408). -/
theorem push_wellFormed (h : sampleReservedClear x = true) : (Instr.push (x.zeroExtend 64)).wellFormed = true := by
  have hhigh : (x.zeroExtend 64).extractLsb' 48 16 = 0#16 := BitVec.eq_of_getLsbD_eq fun i hi => by
    rw [BitVec.getLsbD_extractLsb']
    simp
  rw [Instr.wellFormed, ← sampleOperandOk_eq, sampleOperandOk, operandSample_zeroExtend, h, hhigh]
  rfl

theorem exec_push_zeroExtend (hb : s.unlimited) (hissuer : s.issuer = .producer) (hx : sampleReservedClear x = true) :
    exec (.push (x.zeroExtend 64)) s = .next ((s.afterPush s.issuer x).respond s.issuer (okResponse .ok 1)) := by
  have hwf := push_wellFormed hx
  have hsample := operandSample_zeroExtend x
  cases h : sameSample x s.last with
  | true => rw [afterPush_of_same h, exec_push_unchanged hissuer hwf (by rw [hsample]; exact h)]
  | false => rw [afterPush_of_changed h, exec_push_changed hb hissuer hwf (by rw [hsample]; exact h), hsample]

/-- The entries of a push whose agent is not switched out leave that state, with fuel for what comes after them. -/
theorem run_pushBody {n : Nat} {rest : List Op} {kd : Kind} {v : Word64} {o : Bool} (hb : s.unlimited) (hn : opsWeight rest < n) :
    drive s.issuer (n + 8) ⟨(s.pushBody x).2.1 ++ rest, kd, v, o⟩ (s.pushBody x).2.2 =
      drive s.issuer n ⟨rest, kd, v, o⟩ (s.afterPush s.issuer x) := by
  cases h : sameSample x s.last with
  | true =>
    have hbody : s.pushBody x = (true, [], s.countIdle) := if_pos h
    rw [afterPush_of_same h, hbody]
    exact drive_fuel _ _ _ _ _ (Nat.lt_add_right 8 hn) hn
  | false =>
    generalize hv : annotate x s.last = y
    have hbody : s.pushBody x = (true, flushPendingOps s.idleCnt ++ writeSlotOps y ++ [.setLast y], s) := by
      rw [← hv]
      exact if_neg (Bool.eq_false_iff.1 h)
    have hflushed : (s.flushed s.issuer).unlimited := (flushed_wrote s).only.unlimited hb
    have hweight : opsWeight (writeSlotOps y ++ (Op.setLast y :: rest)) < n + 4 := by
      simp [writeSlotOps, opWeight]; omega
    rw [afterPush_of_changed h, hbody, hv]
    calc drive s.issuer (n + 8) ⟨flushPendingOps s.idleCnt ++ writeSlotOps y ++ [.setLast y] ++ rest, kd, v, o⟩ s
        = drive s.issuer (n + 8) ⟨flushPendingOps s.idleCnt ++ (writeSlotOps y ++ (.setLast y :: rest)), kd, v, o⟩ s := by
          simp only [List.append_assoc, List.singleton_append]
      _ = drive s.issuer (n + 4) ⟨writeSlotOps y ++ (.setLast y :: rest), kd, v, o⟩ (s.flushed s.issuer) :=
          run_flushPendingOps hb hweight
      _ = drive s.issuer (n + 1) ⟨.setLast y :: rest, kd, v, o⟩ (wroteOne s.issuer y (s.flushed s.issuer)) :=
          run_writeSlot _ _ _ _ _ _ _ _ hflushed
      _ = drive s.issuer n ⟨rest, kd, v, o⟩ (s.pushed s.issuer y) := run_op _ _ _ _ _ _ _ _ hflushed

end

/-! ### The latch and the fault check -/

/-- `OUT_LATCH` after the latch of a PROD_TICK whose hard-RT step answered `kd` with `v` (45_producer.md R340). -/
def State.latchAfter (s : State) (kd : Kind) (v : Word64) : Bool :=
  if kd = .ok ∧ sampleSilence (operandSample v) = false then sampleKey (operandSample v) else s.outLatch

theorem takeLatch_eq (s : State) (kd : Kind) (v : Word64) : s.takeLatch kd v = { s with outLatch := s.latchAfter kd v } := by
  unfold State.takeLatch State.latchAfter
  split <;> rfl

/-- `OUT_LATCH` after the fault check of agent `a` as well. -/
def State.keyLatch (s : State) (a : Agent) (kd : Kind) (v : Word64) : Bool :=
  if (s.acqLoadActive a).1 = true then false else s.latchAfter kd v

/-- The block after them. -/
def State.checked (s : State) (a : Agent) (kd : Kind) (v : Word64) : State :=
  { (s.acqLoadActive a).2 with outLatch := s.keyLatch a kd v }

/-- The value of a PROD_TICK: the FSM sample with the key output in bit 48 (30_encoding.md R145). -/
def prodValue (key : Bool) (x : Sample) : Word64 := 0#15 ++ BitVec.ofBool key ++ x

section
variable (key : Bool) (x : Sample)

theorem prodValue_toNat : (prodValue key x).toNat = key.toNat * 2 ^ 48 + x.toNat := by
  simp only [prodValue, toNat_append_eq_add, BitVec.toNat_zero, BitVec.toNat_ofBool]
  omega

theorem prodValue_sample : (prodValue key x).extractLsb' 0 48 = x := by
  rw [extractLsb'_eq_iff, prodValue_toNat]
  omega

theorem prodValue_key : (prodValue key x).getLsbD 48 = key := by
  rw [Bool.eq_iff_iff, getLsbD_iff, prodValue_toNat, ← Bool.toNat_eq_one]
  have hkey := key.toNat_le
  omega

theorem prodValue_high : (prodValue key x).extractLsb' 49 15 = 0 := by
  rw [extractLsb'_eq_iff, prodValue_toNat]
  have hkey := key.toNat_le
  simp
  omega

theorem prodValue_false : prodValue false x = x.zeroExtend 64 :=
  BitVec.eq_of_toNat_eq (by rw [prodValue_toNat, BitVec.toNat_setWidth_of_le (by decide), Bool.toNat_false]; omega)

end

/-- The last two entries of a PROD_TICK leave that state and answer that value. -/
theorem run_latchCheck {a : Agent} {n : Nat} {x : Sample} {kd : Kind} {v : Word64} {o : Bool} {s : State} (hb : s.unlimited) :
    drive a (n + 3) ⟨[.latch, .faultCheck x], kd, v, o⟩ s = (s.checked a kd v).respond a
      (okResponse kd (prodValue (s.keyLatch a kd v && !(s.acqLoadActive a).1) x)) := by
  have hbudget : (s.takeLatch kd v).unlimited := by rw [takeLatch_eq]; exact hb
  have hcheck : (Op.faultCheck x).perform a ⟨[], kd, v, o⟩ (s.takeLatch kd v) =
      (⟨[], kd, prodValue (s.keyLatch a kd v && !(s.acqLoadActive a).1) x, o⟩, s.checked a kd v) := by
    have hload : ({ s with outLatch := s.latchAfter kd v } : State).acqLoadActive a =
        ((s.acqLoadActive a).1, { (s.acqLoadActive a).2 with outLatch := s.latchAfter kd v }) := rfl
    rw [takeLatch_eq, Op.perform, runFaultCheck, hload, State.checked, State.keyLatch]
    cases (s.acqLoadActive a).1 <;> rfl
  exact (run_entry hb rfl).trans ((run_entry hbudget hcheck).trans (run_done _ _ _ _ _ _))

/-! ### The push of a PROD_TICK -/

/-- The block after the FSM tick of PROD_TICK or IAM_TICK (44_iambic.md R302). -/
def State.ticked (s : State) (a b : Word64) : State := { s with fsm := s.fsm.tick a (operandPaddles b) }

/-- The sample of that tick (44_iambic.md R309). -/
def State.tickSample (s : State) (a b : Word64) : Sample := (s.fsm.tick a (operandPaddles b)).output (operandPaddles b)

/-- The block after the FSM tick and the push of a PROD_TICK (45_producer.md R340). -/
def State.afterTickPush (s : State) (a b : Word64) : State := (s.ticked a b).afterPush s.issuer (s.tickSample a b)

section
variable {s : State} {a b : Word64}

theorem issuer_of_prodTick (hadmits : s.admitsCommand (.prodTick a b)) : s.issuer = .producer := hadmits.1

theorem mode_of_prodTick (hadmits : s.admitsCommand (.prodTick a b)) : (s.ctx 0).mode = .hrt := by
  obtain ⟨-, hready, hother, -, -⟩ := hadmits
  cases hmode : (s.ctx 0).mode with
  | none => exact absurd (.inl hmode) hready
  | hrt => rfl
  | be => exact absurd hmode hother

theorem afterTickPush_wrote : Wrote (pushWrites (s.ticked a b) (s.tickSample a b)) (s.ticked a b) (s.afterTickPush a b) :=
  afterPush_wrote

theorem afterTickPush_wroteSlots : WroteSlots (pushWrites s (s.tickSample a b)) s (s.afterTickPush a b) := by
  obtain ⟨⟨hcur, hpast, hpw, hpwNil, hslot, hkept⟩, -⟩ := afterTickPush_wrote (s := s) (a := a) (b := b)
  exact ⟨hcur, hpast, hpw, hpwNil, hslot, hkept⟩

theorem afterTickPush_unlimited (hb : s.unlimited) : (s.afterTickPush a b).unlimited :=
  (afterTickPush_wrote (s := s) (a := a) (b := b)).only.unlimited hb

theorem ctx_afterTickPush (k : CtxIdx) : (s.afterTickPush a b).ctx k = s.ctx k :=
  ctx_of_ctxs (u := s) (afterTickPush_wrote (s := s) (a := a) (b := b)).only.ctxs k

theorem outLatch_afterTickPush : (s.afterTickPush a b).outLatch = s.outLatch :=
  (afterTickPush_wrote (s := s) (a := a) (b := b)).only.outLatch

theorem tickSample_reservedClear : sampleReservedClear (s.tickSample a b) = true := output_reservedClear _ _

theorem afterTickPush_issuer : (s.afterTickPush a b).issuer = s.issuer := afterTickPush_wrote.only.issuer_eq

/-- A PROD_TICK comes to its hard-RT step in that state, with fuel for the rest (92_eei_decisions.md D16: the push is accepted). -/
theorem exec_prodTick (hb : s.unlimited) (hadmits : s.admitsCommand (.prodTick a b)) : exec (.prodTick a b) s =
    .next (drive s.issuer 32 ⟨[.hrtFlag 0, .latch, .faultCheck (s.tickSample a b)], .ok, 0, false⟩ (s.afterTickPush a b)) := by
  rw [exec_admitted s _ hadmits]
  have hbody : bodyOf s (.prodTick a b) = (⟨((s.ticked a b).pushBody (s.tickSample a b)).2.1 ++
      [.hrtFlag 0, .latch, .faultCheck (s.tickSample a b)], .ok, 0, false⟩, ((s.ticked a b).pushBody (s.tickSample a b)).2.2) :=
    prodTickBody_eq s a (operandPaddles b)
  rw [hbody]
  exact congrArg _ (run_pushBody (s := s.ticked a b) (n := 32) hb (by simp [opWeight]))

end

theorem thread_wroteOne (a b : Agent) (v : Sample) (u : State) : ((wroteOne a v u).port b).thread = (u.port b).thread := by
  unfold wroteOne State.publish State.relStoreW State.setView
  exact (thread_setPort_kept (by rfl) b).trans rfl

theorem thread_afterPush (s : State) (a b : Agent) (x : Sample) : ((s.afterPush a x).port b).thread = (s.port b).thread := by
  have hflushed : ((s.flushed a).port b).thread = (s.port b).thread := by
    by_cases h : s.idleCnt = 0
    · rw [flushed_of_none a h]
    · rw [flushed_of_pending a h]; exact thread_wroteOne a b _ s
  cases h : sameSample x s.last with
  | true => rw [afterPush_of_same h]; rfl
  | false => rw [afterPush_of_changed h]; exact (thread_wroteOne a b _ (s.flushed a)).trans hflushed

/-! ### O49 -/

theorem respond_respond (s : State) (a : Agent) (r q : Response) : (s.respond a r).respond a q = s.respond a q := by
  simp [State.respond]

/-- The response already on the port does not decide what the latch and the fault check leave. -/
theorem checked_respond (s : State) (a : Agent) (r : Response) (kd : Kind) (v : Word64) :
    (s.respond a r).checked a kd v = (s.checked a kd v).respond a r := by
  simp only [State.checked, State.keyLatch, State.latchAfter, loadActive_respond]
  rfl

theorem keyLatch_respond (s : State) (a : Agent) (r : Response) (kd : Kind) (v : Word64) :
    (s.respond a r).keyLatch a kd v = s.keyLatch a kd v := by
  simp only [State.keyLatch, State.latchAfter, loadActive_respond]
  rfl

/-- Pin TX_KEY follows the load of ACTIVE, unless that is an older 0 while ACTIVE and the latch are 1 (45_producer.md R342). -/
theorem txKey_checked {u : State} {a : Agent} {kd : Kind} {v : Word64}
    (h : (u.acqLoadActive a).1 = true ∨ u.active.cur = 0 ∨ (u.checked a kd v).outLatch = false) :
    (u.checked a kd v).txKey = (u.keyLatch a kd v && !(u.acqLoadActive a).1) := by
  have hpin : (u.checked a kd v).txKey = (u.keyLatch a kd v && u.active.cur == 0#1) := rfl
  rw [hpin]
  rcases h with hload | hcur | hlatch
  · simp [State.keyLatch, hload]
  · cases hload : (u.acqLoadActive a).1 <;> simp [State.keyLatch, hload, hcur]
  · simp [show u.keyLatch a kd v = false from hlatch]

theorem txKey_respond (s : State) (a : Agent) (r : Response) : (s.respond a r).txKey = s.txKey := rfl

/-- The latch, the fault check and the response write the latch and the agent's port alone. -/
theorem answered_frame (u : State) (a : Agent) (kd : Kind) (v : Word64) (r : Response) :
    SameStream u ((u.checked a kd v).respond a r) ∧ SameFault u ((u.checked a kd v).respond a r) ∧
      ((u.checked a kd v).respond a r).ctxs = u.ctxs ∧ ((u.checked a kd v).respond a r).fsm = u.fsm := by
  refine ⟨⟨?_, ?_, ?_, ?_, ?_⟩, ⟨?_, ?_, ?_, ?_⟩, ?_, ?_⟩ <;> simp [State.checked]

/-- The hard-RT tick of context 0 that follows the push is admitted when the PROD_TICK is. -/
theorem admits_hrtTick_afterTickPush {s : State} {a b : Word64} (r : Response) (hadmits : s.admitsCommand (.prodTick a b)) :
    ((s.afterTickPush a b).respond s.issuer r).admitsCommand (.hrtTick 0) := by
  have hmode : ((s.afterTickPush a b).ctx 0).mode = .hrt := by
    rw [ctx_afterTickPush]
    exact mode_of_prodTick hadmits
  have howner : (s.afterTickPush a b).issuer.ownContext = some 0 := by
    rw [afterTickPush_issuer, issuer_of_prodTick hadmits]
    rfl
  refine ⟨⟨howner, Nat.succ_pos _⟩, fun h => ?_, fun h => ?_, rfl, id⟩ <;> cases hmode.symm.trans h

/-- A hard-RT tick of agent `a` ends in `u`, whatever response it finds on its port; in front of the latch and the fault check its
entries leave the same, but for the response. -/
theorem run_hrtTick_latchCheck {p : State} {a : Agent} (x : Sample) (hb : p.unlimited) (hnone : (p.port a).thread = none) :
    ∃ (u : State) (kd : Kind) (v : Word64), u.outLatch = p.outLatch ∧ (u.port a).response = some (okResponse kd v) ∧
      (∀ r, drive a sliceFuel ⟨[.hrtFlag 0], .ok, 0, false⟩ (p.respond a r) = u) ∧
      drive a 32 ⟨[.hrtFlag 0, .latch, .faultCheck x], .ok, 0, false⟩ p = (u.checked a kd v).respond a
        (okResponse kd (prodValue (u.keyLatch a kd v && !(u.acqLoadActive a).1) x)) := by
  obtain ⟨⟨ops, kd, v, o⟩, y, -, -, hlatch, -, hy, -, -, -, -, hrun, hcompose⟩ :=
    run_all a sliceFuel ⟨[.hrtFlag 0], .ok, 0, false⟩ p hb (by simp [sliceFuel, opWeight]) hnone (by simp [tame]) closed_tame
  refine ⟨y.respond a (okResponse kd v), kd, v, hlatch, by rw [State.port_respond_same], hrun, ?_⟩
  rw [checked_respond, respond_respond, keyLatch_respond, loadActive_respond]
  exact (hcompose [.latch, .faultCheck x] 32 (by simp [opWeight])).trans (run_latchCheck hy)

/-- Settles O49: the entries of the push and those of the hard-RT tick do in the PROD_TICK what they do in their own commands. -/
theorem prodTickIsTickPushConsumeCheck : Obligations.ProdTickIsTickPushConsumeCheck := by
  intro a b s t u x r hb hadmits hidle hx hpush htick hr
  change x = s.tickSample a b at hx
  subst hx
  have ht : exec (.push ((s.tickSample a b).zeroExtend 64)) (s.ticked a b) =
      .next ((s.afterTickPush a b).respond s.issuer (okResponse .ok 1)) :=
    exec_push_zeroExtend (s := s.ticked a b) hb (issuer_of_prodTick (s := s) hadmits) tickSample_reservedClear
  obtain rfl := Host.Outcome.next.inj (ht.symm.trans hpush)
  have hnone : ((s.afterTickPush a b).port s.issuer).thread = none := (thread_afterPush (s.ticked a b) _ _ _).trans hidle
  obtain ⟨u', kd, v, hlatch, hresponse, hrun, hprod⟩ :=
    run_hrtTick_latchCheck (s.tickSample a b) (afterTickPush_unlimited (a := a) (b := b) hb) hnone
  have hu : exec (.hrtTick 0) ((s.afterTickPush a b).respond s.issuer (okResponse .ok 1)) = .next u' := by
    rw [exec_admitted _ _ (admits_hrtTick_afterTickPush _ hadmits)]
    exact congrArg _ ((congrArg (drive · _ _ _) afterTickPush_issuer).trans (hrun _))
  obtain rfl := Host.Outcome.next.inj (htick.symm.trans hu)
  obtain rfl := Option.some.inj (hresponse.symm.trans hr)
  refine ⟨u.checked s.issuer kd v, (u.acqLoadActive s.issuer).1,
    prodValue (u.keyLatch s.issuer kd v && !(u.acqLoadActive s.issuer).1) (s.tickSample a b),
    ?_, rfl, rfl, prodValue_sample _ _, prodValue_key _ _, prodValue_high _ _, fun h => ?_, ?_⟩
  · rw [← outLatch_afterTickPush (s := s), ← hlatch]
    rfl
  · rw [prodValue_key]
    exact (txKey_checked h).symm
  · rw [exec_prodTick hb hadmits, hprod]
    rfl

/-! ### O50 -/

/-- What decides the loads of ACTIVE by agent `a` is the same in both states (20_memory.md R106). -/
structure SameFlagLoads (a : Agent) (s t : State) : Prop where
  active : t.active = s.active
  ages : t.turn.ages = s.turn.ages
  seen : (t.view a).active = (s.view a).active

section
variable {s t : State} {a : Agent}

theorem SameFlagLoads.loadAge (h : SameFlagLoads a s t) (seen top : Nat) : t.loadAge seen top = s.loadAge seen top := by
  rw [State.loadAge, State.loadAge, State.nextAge, State.nextAge, h.ages]

theorem SameFlagLoads.value (h : SameFlagLoads a s t) : (t.acqLoadActive a).1 = (s.acqLoadActive a).1 := by
  rw [State.acqLoadActive_value, State.acqLoadActive_value, h.loadAge, h.active, h.seen]

/-- It is so again after a load. -/
theorem SameFlagLoads.load (h : SameFlagLoads a s t) : SameFlagLoads a (s.acqLoadActive a).2 (t.acqLoadActive a).2 := by
  refine ⟨h.active, congrArg List.tail h.ages, ?_⟩
  simp only [State.acqLoadActive, State.view_setView, View.join, h.loadAge, h.active, h.seen]

theorem view_active_wroteOne (a : Agent) (v : Sample) (u : State) : ((wroteOne a v u).view a).active = (u.view a).active := by
  rw [wroteOne, State.publish, State.relStoreW, State.view_setView]
  exact Nat.max_zero _

/-- A push stores no flag and loads none. -/
theorem view_active_afterPush (s : State) (a : Agent) (x : Sample) : ((s.afterPush a x).view a).active = (s.view a).active := by
  have hflushed : ((s.flushed a).view a).active = (s.view a).active := by
    by_cases h : s.idleCnt = 0
    · rw [flushed_of_none a h]
    · rw [flushed_of_pending a h]; exact view_active_wroteOne a _ s
  cases h : sameSample x s.last with
  | true => rw [afterPush_of_same h]; rfl
  | false => rw [afterPush_of_changed h]; exact (view_active_wroteOne a _ (s.flushed a)).trans hflushed

end

section
variable {s : State} {a b : Word64}

theorem sameFlagLoads_afterTickPush : SameFlagLoads s.issuer s (s.afterTickPush a b) where
  active := (afterTickPush_wrote (s := s) (a := a) (b := b)).only.fault.1
  ages := congrArg Slice.ages (afterTickPush_wrote (s := s) (a := a) (b := b)).only.turn
  seen := view_active_afterPush (s.ticked a b) s.issuer _

/-- A PROD_TICK whose first load of ACTIVE returns 1 comes to the latch with FAULT (41_hrt_consumer.md R241 (a)). -/
theorem exec_prodTick_of_flag {y : State} (hb : s.unlimited) (hadmits : s.admitsCommand (.prodTick a b))
    (hflag : (s.afterTickPush a b).acqLoadActive s.issuer = (true, y)) : exec (.prodTick a b) s =
      .next ((y.checked s.issuer .fault 0).respond s.issuer
        (okResponse .fault (prodValue (y.keyLatch s.issuer .fault 0 && !(y.acqLoadActive s.issuer).1) (s.tickSample a b)))) := by
  have hp : (s.afterTickPush a b).unlimited := afterTickPush_unlimited hb
  have hy : ((s.afterTickPush a b).acqLoadActive s.issuer).2.unlimited := hp
  rw [hflag] at hy
  have hfault : (Op.hrtFlag 0).perform s.issuer ⟨[.latch, .faultCheck (s.tickSample a b)], .ok, 0, false⟩ (s.afterTickPush a b) =
      (⟨[.latch, .faultCheck (s.tickSample a b)], .fault, 0, false⟩, y) := by
    simp only [Op.perform, runHrtFlag, hflag, if_true, Thread.withResult]
  rw [exec_prodTick hb hadmits]
  exact congrArg _ ((run_entry hp hfault).trans (run_latchCheck hy))

end

/-- Settles O50: the first load ends the hard-RT step with FAULT, and the second forces the latch. -/
theorem prodTickUnderAFaultForcesTheKeyUp : Obligations.ProdTickUnderAFaultForcesTheKeyUp := by
  intro a b s x hb hadmits hfirst hsecond hx
  change x = s.tickSample a b at hx
  subst hx
  have hsame : SameFlagLoads s.issuer s (s.afterTickPush a b) := sameFlagLoads_afterTickPush
  have hload : (((s.afterTickPush a b).acqLoadActive s.issuer).2.acqLoadActive s.issuer).1 = true := hsame.load.value.trans hsecond
  have hexec := exec_prodTick_of_flag hb hadmits (Prod.ext (hsame.value.trans hfirst) rfl)
  rw [hload, Bool.not_true, Bool.and_false, prodValue_false] at hexec
  have honly := (afterTickPush_wrote (s := s) (a := a) (b := b)).only
  have hwrote := afterTickPush_wroteSlots (s := s) (a := a) (b := b)
  have houtside := sameOutside_of_exec (i := .prodTick a b) nofun hexec
  generalize s.afterTickPush a b = p at *
  obtain ⟨⟨hw, hslots, -, -, hpw⟩, hfault, hctxs, hfsm⟩ := answered_frame (p.acqLoadActive s.issuer).2 s.issuer
    .fault 0 (okResponse .fault ((s.tickSample a b).zeroExtend 64))
  have htx := txKey_checked (kd := .fault) (v := 0) (.inl hload)
  rw [hload, Bool.not_true, Bool.and_false] at htx
  exact ends_of_exec hexec ⟨if_pos hload, (txKey_respond _ _ _).trans htx, hfsm.trans honly.fsm,
    wrote_congr _ s _ _ hwrote hw hpw hslots, honly.fault.trans hfault, hctxs.trans honly.ctxs, houtside⟩

/-! ### Loads that return the latest value -/

section
variable {s u : State} {a : Agent}

theorem loadAge_of_latest {seen top : Nat} (h : top ≤ seen ∨ s.asksForLatest) : s.loadAge seen top = 0 := by
  rcases h with hseen | hasks
  · exact State.loadAge_of_current s hseen
  · rw [State.loadAge, State.nextAge, show s.turn.ages = [] from hasks]
    exact Nat.zero_min _

/-- A load of W by an agent that has seen the latest value, or asks for none older, returns it; the agent has then seen it. -/
theorem acqLoadW_latest (h : s.seesW a ∨ s.asksForLatest) : (s.acqLoadW a).1 = s.w.cur ∧ (s.acqLoadW a).2.seesW a := by
  have hage : s.loadAge (s.view a).w s.w.top = 0 := loadAge_of_latest h
  have hseen := acqLoadW_seen (s := s) (a := a)
  rw [hage, Nat.sub_zero] at hseen
  exact ⟨by rw [State.acqLoadW_value, hage, State.atAge_zero], hseen⟩

theorem acqLoadActive_latest (h : s.seesActive a ∨ s.asksForLatest) :
    (s.acqLoadActive a).1 = (s.active.cur == 1#1) ∧ (s.acqLoadActive a).2.seesActive a := by
  have hage : s.loadAge (s.view a).active s.active.top = 0 := loadAge_of_latest h
  have hseen := acqLoadActive_seen (s := s) (a := a)
  rw [hage, Nat.sub_zero] at hseen
  exact ⟨by rw [State.acqLoadActive_value, hage, State.atAge_zero], hseen⟩

theorem Like.seesW (hlike : Like a s u) (h : s.seesW a) : u.seesW a := by
  rw [State.seesW, hlike.w]
  exact le_trans h hlike.seenW

theorem Like.seesActive (hlike : Like a s u) (h : s.seesActive a) : u.seesActive a := by
  rw [State.seesActive, hlike.active]
  exact le_trans h hlike.seenA

end

/-! ### A hard-RT step within its bounds -/

/-- The push has left a lag of at most 2 within MAXLAG and CAP, no fault is active, and the loads of the producer return the latest
values (45_producer.md R344). -/
structure State.InBounds (p : State) (a : Agent) : Prop where
  unlimited : p.unlimited
  active : p.active.cur = 0
  seesActive : p.seesActive a ∨ p.asksForLatest
  seesW : p.seesW a ∨ p.asksForLatest
  pw : p.pw = p.w.cur
  noInit : p.strmInitRunning = false
  cap : 2 ≤ 2 ^ p.params.capLog2.val
  maxLag : 2 ≤ (p.ctx 0).maxLag.toNat
  lag : (p.w.cur - (p.ctx 0).cur).toNat ≤ 2

/-- What the hard-RT step of context 0 then leaves: the lag is one less, or 0 as before. -/
structure State.Consumed (p : State) (a : Agent) (y : State) : Prop where
  like : Like a p y
  seesActive : y.seesActive a
  seesW : y.seesW a
  stream : SameStream p y
  mode : (y.ctx 0).mode = (p.ctx 0).mode
  maxLag : (y.ctx 0).maxLag = (p.ctx 0).maxLag
  lag : (y.w.cur - (y.ctx 0).cur).toNat = (p.w.cur - (p.ctx 0).cur).toNat - 1

/-- The cursor one on, the lag is one less. -/
theorem lag_succ {w cur : Word32} (h : w - cur ≠ 0#32) : (w - (cur + 1)).toNat = (w - cur).toNat - 1 := by
  have hne : (w - cur).toNat ≠ 0 := fun e => h (BitVec.eq_of_toNat_eq e)
  rw [← sub_sub, BitVec.toNat_sub_of_le (by rw [BitVec.le_def]; show 1 ≤ _; omega)]
  rfl

section
variable {p z : State} {a : Agent} {n : Nat} {rest : List Op} {kd : Kind} {v : Word64} {o : Bool} {k : CtxIdx}

theorem run_hrtFlag_clear (hb : p.unlimited) (hflag : (p.acqLoadActive a).1 = false) :
    drive a (n + 1) ⟨.hrtFlag k :: rest, kd, v, o⟩ p = drive a n ⟨.hrtLag k :: rest, kd, v, o⟩ (p.acqLoadActive a).2 := by
  refine run_entry hb ?_
  simp only [Op.perform, runHrtFlag, hflag]
  rfl

/-- A lag within MAXLAG ends the step with NO_DATA when it is 0, and otherwise brings it to the overrun test. -/
theorem run_hrtLag_within (hb : p.unlimited) (hmax : (p.acqLoadW a).1 - (p.ctx k).cur ≤ (p.ctx k).maxLag) :
    drive a (n + 1) ⟨.hrtLag k :: rest, kd, v, o⟩ p = drive a n
      (if (p.acqLoadW a).1 - (p.ctx k).cur = 0#32 then ⟨rest, .noData, 0, o⟩ else ⟨.hrtOverrun k :: rest, kd, v, o⟩)
      (p.acqLoadW a).2 := by
  rw [run_op _ _ _ _ _ _ _ _ hb]
  simp only [Op.perform, runHrtLag, if_neg (BitVec.not_lt.2 hmax)]
  split <;> rfl

/-- The block after the overrun test and the read of a step that has seen the latest W: two loads of it, and the cursor one on. -/
def State.afterRead (z : State) (a : Agent) (k : CtxIdx) : State :=
  ((z.acqLoadW a).2.acqLoadW a).2.setCtx k { z.ctx k with cur := (z.ctx k).cur + 1 }

theorem run_hrtRead_within (hb : z.unlimited) (hsees : z.seesW a) (hne : z.w.cur - (z.ctx k).cur ≠ 0#32)
    (hcap : ¬ z.params.cap < z.w.cur - (z.ctx k).cur) (hcopy : z.copyDraws o (z.ctx k).cur = false) :
    drive a (n + 3) ⟨.hrtOverrun k :: rest, kd, v, o⟩ z =
      drive a n ⟨rest, .ok, (z.slot (z.slotOf (z.ctx k).cur)).zeroExtend 64, o⟩ (z.afterRead a k) := by
  have hagain : (z.acqLoadW a).2.seesW a := (acqLoadW_latest (.inl hsees)).2
  have hoverrun : (Op.hrtOverrun k).perform a ⟨rest, kd, v, o⟩ z =
      (⟨.readLoad (z.ctx k).cur (.hrt k) :: rest, kd, v, o⟩, (z.acqLoadW a).2) := by
    simp only [Op.perform, runHrtOverrun, State.acqLoadW_of_current z a hsees, if_neg hcap]
    rfl
  have hread : (Op.readLoad (z.ctx k).cur (.hrt k)).perform a ⟨rest, kd, v, o⟩ (z.acqLoadW a).2 =
      (⟨.slotCopy (z.ctx k).cur (.hrt k) :: rest, kd, v, o⟩, ((z.acqLoadW a).2.acqLoadW a).2) := by
    simp only [Op.perform, runReadLoad, State.acqLoadW_of_current _ a hagain]
    exact if_neg (not_or.2 ⟨hne, hcap⟩)
  have hslot : (Op.slotCopy (z.ctx k).cur (.hrt k)).perform a ⟨rest, kd, v, o⟩ ((z.acqLoadW a).2.acqLoadW a).2 =
      (⟨rest, .ok, (z.slot (z.slotOf (z.ctx k).cur)).zeroExtend 64, o⟩, z.afterRead a k) := by
    have hclear : ((z.acqLoadW a).2.acqLoadW a).2.copyDraws o (z.ctx k).cur = false := by rw [copyDraws_loadW, copyDraws_loadW, hcopy]
    simp only [Op.perform, runSlotCopy_eq, copySlot_clear _ _ _ hclear, readSucceeded, Thread.withResult, State.afterRead,
      slot_loadW, slotOf_loadW, ctx_loadW]
    rfl
  exact (run_entry hb hoverrun).trans ((run_entry (s := (z.acqLoadW a).2) hb hread).trans
    (run_entry (s := ((z.acqLoadW a).2.acqLoadW a).2) hb hslot))

/-- The block after the first two loads of a hard-RT step, of ACTIVE and of W (41_hrt_consumer.md R241 (a), (b)). -/
def State.afterLag (p : State) (a : Agent) : State := ((p.acqLoadActive a).2.acqLoadW a).2

theorem afterRead_stream (z : State) (a : Agent) (k : CtxIdx) : SameStream z (z.afterRead a k) := by
  refine ⟨?_, ?_, ?_, ?_, ?_⟩ <;> simp [State.afterRead]

theorem afterLag_stream (p : State) (a : Agent) : SameStream p (p.afterLag a) := by
  refine ⟨?_, ?_, ?_, ?_, ?_⟩ <;> simp [State.afterLag]

theorem ctx_afterLag (p : State) (a : Agent) (k : CtxIdx) : (p.afterLag a).ctx k = p.ctx k := rfl

theorem ctx_afterRead (z : State) (a : Agent) (k : CtxIdx) : (z.afterRead a k).ctx k = { z.ctx k with cur := (z.ctx k).cur + 1 } :=
  State.ctx_setCtx_same _ _ _

theorem afterRead_like (hb : z.unlimited) : Like a z (z.afterRead a k) := (loadW_like hb).loadW.setCtx _ _

/-- The load of ACTIVE finds no fault, the load of W finds the latest W, and the producer has then seen the latest of both. -/
theorem State.InBounds.afterLag (h : p.InBounds a) : (p.acqLoadActive a).1 = false ∧ ((p.acqLoadActive a).2.acqLoadW a).1 = p.w.cur ∧
    Like a p (p.afterLag a) ∧ (p.afterLag a).seesActive a ∧ (p.afterLag a).seesW a := by
  obtain ⟨hflag, hseesActive⟩ := acqLoadActive_latest h.seesActive
  have hlike : Like a p (p.acqLoadActive a).2 := loadActive_like h.unlimited
  obtain ⟨hw, hseesW⟩ := acqLoadW_latest (s := (p.acqLoadActive a).2) (h.seesW.imp hlike.seesW (congrArg List.tail))
  exact ⟨by rw [hflag, h.active]; rfl, hw, hlike.loadW, (loadW_like hlike.budget).seesActive hseesActive, hseesW⟩

theorem State.InBounds.consumed_none (h : p.InBounds a) (hzero : p.w.cur - (p.ctx 0).cur = 0#32) : p.Consumed a (p.afterLag a) := by
  obtain ⟨-, -, hlike, hseesActive, hseesW⟩ := h.afterLag
  refine ⟨hlike, hseesActive, hseesW, afterLag_stream p a, by rw [ctx_afterLag], by rw [ctx_afterLag], ?_⟩
  rw [ctx_afterLag, hlike.w, hzero]
  rfl

theorem State.InBounds.consumed_read (h : p.InBounds a) (hne : p.w.cur - (p.ctx 0).cur ≠ 0#32) :
    p.Consumed a ((p.afterLag a).afterRead a 0) := by
  obtain ⟨-, -, hlike, hseesActive, hseesW⟩ := h.afterLag
  have hread : Like a (p.afterLag a) ((p.afterLag a).afterRead a 0) := afterRead_like hlike.budget
  refine ⟨hlike.trans hread, hread.seesActive hseesActive, hread.seesW hseesW, (afterLag_stream p a).trans (afterRead_stream _ _ _),
    by rw [ctx_afterRead, ctx_afterLag], by rw [ctx_afterRead, ctx_afterLag], ?_⟩
  rw [ctx_afterRead, ctx_afterLag, hread.w, hlike.w]
  exact lag_succ hne

/-- A step within its bounds reads the sample at its cursor, or answers NO_DATA at a lag of 0. -/
theorem run_hrtStep_within (x : Sample) (h : p.InBounds a) : ∃ (y : State) (kd : Kind) (v : Word64), kd ≠ .fault ∧ p.Consumed a y ∧
    drive a 32 ⟨[.hrtFlag 0, .latch, .faultCheck x], .ok, 0, false⟩ p = (y.checked a kd v).respond a
      (okResponse kd (prodValue (y.keyLatch a kd v && !(y.acqLoadActive a).1) x)) := by
  obtain ⟨hflag, hw, hlike, -, hseesW⟩ := h.afterLag
  have hmax : p.w.cur - (p.ctx 0).cur ≤ (p.ctx 0).maxLag := BitVec.le_def.2 (h.lag.trans h.maxLag)
  have hlag : drive a 32 ⟨[.hrtFlag 0, .latch, .faultCheck x], .ok, 0, false⟩ p = drive a 30
      (if p.w.cur - (p.ctx 0).cur = 0#32 then ⟨[.latch, .faultCheck x], .noData, 0, false⟩
        else ⟨[.hrtOverrun 0, .latch, .faultCheck x], .ok, 0, false⟩) (p.afterLag a) := by
    rw [← hw] at hmax ⊢
    exact (run_hrtFlag_clear h.unlimited hflag).trans (run_hrtLag_within (p := (p.acqLoadActive a).2) h.unlimited hmax)
  by_cases hzero : p.w.cur - (p.ctx 0).cur = 0#32
  · rw [if_pos hzero] at hlag
    exact ⟨p.afterLag a, .noData, 0, nofun, h.consumed_none hzero, hlag.trans (run_latchCheck hlike.budget)⟩
  · rw [if_neg hzero] at hlag
    have hconsumed := h.consumed_read hzero
    have hcap : ¬ p.params.cap < p.w.cur - (p.ctx 0).cur := by
      rw [Params.cap_lt_iff]
      have hle := h.lag
      have hroom := h.cap
      omega
    have hcopy : (p.afterLag a).copyDraws false ((p.afterLag a).ctx 0).cur = false := by
      rw [hlike.copy, State.copyDraws, h.noInit, h.pw, ctx_afterLag]
      simpa using hcap
    rw [← hlike.w, ← hlike.params, ← ctx_afterLag p a 0] at hcap
    rw [← hlike.w, ← ctx_afterLag p a 0] at hzero
    exact ⟨_, .ok, _, nofun, hconsumed,
      (hlag.trans (run_hrtRead_within hlike.budget hseesW hzero hcap hcopy)).trans (run_latchCheck hconsumed.like.budget)⟩

end

/-! ### The push within the bounds -/

section
variable {s : State} {a : Agent} {x : Sample}

theorem strmInitRunning_afterPush (s : State) (a : Agent) (x : Sample) : (s.afterPush a x).strmInitRunning = s.strmInitRunning := by
  rw [State.strmInitRunning, State.strmInitRunning, thread_afterPush]

theorem seesW_afterPush (h : s.seesW a) : (s.afterPush a x).seesW a := by
  cases hsame : sameSample x s.last with
  | true => rw [afterPush_of_same hsame]; exact h
  | false => rw [afterPush_of_changed hsame]; exact seesW_relStoreW _ a _

/-- Slot writes leave PW at W (10_state.md R37). -/
theorem WroteSlots.pw_eq {vs : List Sample} {t : State} (h : WroteSlots vs s t) (hpw : s.pw = s.w.cur) : t.pw = t.w.cur := by
  obtain ⟨hcur, -, hsome, hnone, -, -⟩ := h
  by_cases hvs : vs = []
  · subst hvs
    rw [hnone rfl, hpw, hcur, List.length_nil, BitVec.add_zero]
  · exact hsome hvs

/-- One slot is written at a lag of at most 1, and two only at a lag of 0; ticks stay pending only when none is (45_producer.md R344). -/
theorem lag_afterPush {cur : Word32} (hlag : (s.w.cur - cur).toNat ≤ 1) (hpending : s.idleCnt ≠ 0 → s.w.cur = cur) :
    ((s.afterPush s.issuer x).w.cur - cur).toNat ≤ 2 ∧
      ((s.afterPush s.issuer x).idleCnt ≠ 0 → ((s.afterPush s.issuer x).w.cur - cur).toNat ≤ 1) := by
  cases hsame : sameSample x s.last with
  | true =>
    rw [afterPush_of_same hsame]
    exact ⟨hlag.trans (by decide), fun _ => hlag⟩
  | false =>
    obtain ⟨hcur, -⟩ := (afterPush_wrote (s := s) (x := x)).slots
    have hcount : (s.afterPush s.issuer x).idleCnt = 0 := by rw [afterPush_of_changed hsame]; exact flushed_idleCnt s s.issuer
    refine ⟨?_, fun h => absurd hcount h⟩
    rw [hcur, pushWrites, if_neg (Bool.eq_false_iff.1 hsame), List.length_append, List.length_singleton]
    by_cases hidle : s.idleCnt = 0
    · rw [pendingMarker_of_none hidle, List.length_nil]
      bv_omega
    · rw [pendingMarker_of_pending hidle, List.length_singleton, hpending hidle]
      bv_omega

end

/-! ### O51 -/

theorem lag_afterTickPush {s : State} {a b : Word64} {cur : Word32} (hlag : (s.w.cur - cur).toNat ≤ 1)
    (hpending : s.idleCnt ≠ 0 → s.w.cur = cur) : ((s.afterTickPush a b).w.cur - cur).toNat ≤ 2 ∧
      ((s.afterTickPush a b).idleCnt ≠ 0 → ((s.afterTickPush a b).w.cur - cur).toNat ≤ 1) :=
  lag_afterPush (s := s.ticked a b) hlag hpending

theorem inBounds_afterTickPush {s : State} {a b : Word64} (hb : s.unlimited) (hactive : s.active.cur = 0)
    (hseesActive : s.seesActive s.issuer ∨ s.asksForLatest) (hseesW : s.seesW s.issuer ∨ s.asksForLatest) (hpw : s.pw = s.w.cur)
    (hinit : s.strmInitRunning = false) (hcap : 1 ≤ s.params.capLog2.val) (hmax : 2 ≤ (s.ctx 0).maxLag.toNat)
    (hlag : ((s.afterTickPush a b).w.cur - (s.ctx 0).cur).toNat ≤ 2) : (s.afterTickPush a b).InBounds s.issuer := by
  have honly := (afterTickPush_wrote (s := s) (a := a) (b := b)).only
  have hsame : SameFlagLoads s.issuer s (s.afterTickPush a b) := sameFlagLoads_afterTickPush
  have hasks : s.asksForLatest → (s.afterTickPush a b).asksForLatest := hsame.ages.trans
  exact {
    unlimited := honly.unlimited hb
    active := by rw [hsame.active, hactive]
    seesActive := hseesActive.imp (fun h => by rw [State.seesActive, hsame.active, hsame.seen]; exact h) hasks
    seesW := hseesW.imp (seesW_afterPush (s := s.ticked a b)) hasks
    pw := afterTickPush_wroteSlots.pw_eq hpw
    noInit := (strmInitRunning_afterPush (s.ticked a b) _ _).trans hinit
    cap := by rw [honly.params]; exact Nat.pow_le_pow_right (n := 2) (by decide) hcap
    maxLag := by rw [ctx_afterTickPush]; exact hmax
    lag := by rw [ctx_afterTickPush]; exact hlag }

/-- What R344 keeps: no fault, the latest W and ACTIVE seen, no slot write begun, and a lag of at most 1 that is 0 while ticks are
pending. -/
structure State.LagBounded (t : State) (a : Agent) : Prop where
  active : t.active.cur = 0
  seesActive : t.seesActive a
  seesW : t.seesW a
  pw : t.pw = t.w.cur
  lag : (t.w.cur - (t.ctx 0).cur).toNat ≤ 1
  pending : t.idleCnt ≠ 0 → t.w.cur = (t.ctx 0).cur

section
variable {p y : State} {a : Agent}

/-- The hard-RT step takes the lag that the push has left to the bound of R344. -/
theorem State.Consumed.lagBounded (hy : p.Consumed a y) (h : p.InBounds a)
    (hpending : p.idleCnt ≠ 0 → (p.w.cur - (p.ctx 0).cur).toNat ≤ 1) : y.LagBounded a := by
  obtain ⟨hw, -, -, hidle, hpw⟩ := hy.stream
  have hlag := hy.lag
  have htwo := h.lag
  refine ⟨by rw [hy.like.active, h.active], hy.seesActive, hy.seesW, by rw [hpw, hw, h.pw], by omega, fun hticks => ?_⟩
  have hone := hpending (hidle ▸ hticks)
  exact sub_eq_zero.1 (BitVec.eq_of_toNat_eq (hlag.trans (Nat.sub_eq_zero_of_le hone)))

/-- The latch, the fault check and the response keep that. -/
theorem State.LagBounded.answered (h : y.LagBounded a) (hb : y.unlimited) (kd : Kind) (v : Word64) (r : Response) :
    ((y.checked a kd v).respond a r).LagBounded a := by
  obtain ⟨⟨hw, -, -, hidle, hpw⟩, ⟨hactive, -⟩, hctxs, -⟩ := answered_frame y a kd v r
  have hctx := ctx_of_ctxs hctxs 0
  have hlike : Like a y (y.acqLoadActive a).2 := loadActive_like hb
  refine ⟨by rw [hactive, h.active], ?_, ?_, by rw [hpw, hw, h.pw], by rw [hw, hctx]; exact h.lag,
    by rw [hw, hctx, hidle]; exact h.pending⟩
  · rw [State.seesActive, view_respond]
    exact hlike.seesActive h.seesActive
  · rw [State.seesW, view_respond]
    exact hlike.seesW h.seesW

/-- Without a fault the key output is the latch, in the value and on the pin. -/
theorem State.LagBounded.key (h : y.LagBounded a) (kd : Kind) (v : Word64) (r : Response) :
    (y.keyLatch a kd v && !(y.acqLoadActive a).1) = ((y.checked a kd v).respond a r).outLatch ∧
      ((y.checked a kd v).respond a r).txKey = ((y.checked a kd v).respond a r).outLatch := by
  have hload : (y.acqLoadActive a).1 = false := by rw [State.acqLoadActive_of_current y a h.seesActive, h.active]; rfl
  have hkey : (y.keyLatch a kd v && !(y.acqLoadActive a).1) = y.keyLatch a kd v := by rw [hload, Bool.not_false, Bool.and_true]
  exact ⟨hkey, (txKey_respond _ _ _).trans ((txKey_checked (.inr (.inl h.active))).trans hkey)⟩

end

/-- Settles O51: the push adds to the lag no more than the bounds of the hard-RT step, and that takes one sample off. -/
theorem prodTickKeepsTheLagBounded : Obligations.ProdTickKeepsTheLagBounded := by
  intro a b s hb hadmits hactive hseesActive hseesW hpw hinit hcap hmax hlag hpending
  have hissuer := issuer_of_prodTick hadmits
  rw [← hissuer] at hseesActive hseesW ⊢
  obtain ⟨htwo, hone⟩ := lag_afterTickPush (a := a) (b := b) hlag hpending
  have hbounds := inBounds_afterTickPush hb hactive hseesActive hseesW hpw hinit hcap hmax htwo
  have hexec := exec_prodTick hb hadmits
  have hctx := ctx_afterTickPush (s := s) (a := a) (b := b) 0
  have hfault := (afterTickPush_wrote (s := s) (a := a) (b := b)).only.fault
  have hcontexts : ∀ t, exec (.prodTick a b) s = .next t → SameOtherContexts 0 s t := fun t h j hj =>
    (contextsArePrivate (.prodTick a b) s t j).1 (by rw [hissuer]; exact fun e => hj (Option.some.inj e).symm) h
  rw [← hctx] at hone
  generalize s.afterTickPush a b = p at *
  obtain ⟨y, kd, v, hkd, hy, hrun⟩ := run_hrtStep_within (s.tickSample a b) hbounds
  rw [hrun] at hexec
  have hyfault : SameFault p y := ⟨hy.like.active, hy.like.code, hy.like.data, hy.like.count⟩
  have hbounded := hy.lagBounded hbounds hone
  refine ⟨kd, _, hkd, ends_of_exec hexec ?_⟩
  generalize okResponse kd _ = r at hexec ⊢
  obtain ⟨-, htfault, htctxs, -⟩ := answered_frame y s.issuer kd v r
  obtain ⟨hkey, htx⟩ := hbounded.key kd v r
  obtain ⟨tactive, tseesActive, tseesW, tpw, tlag, tpending⟩ := hbounded.answered hy.like.budget kd v r
  have htctx := ctx_of_ctxs htctxs 0
  exact ⟨tactive, tseesActive, tseesW, tpw, by rw [htctx, hy.maxLag, hctx], by rw [htctx, hy.mode, hctx, mode_of_prodTick hadmits],
    tlag, tpending, (prodValue_key _ _).trans hkey, htx, (hfault.trans hyfault).trans htfault, hcontexts _ hexec⟩

end Sys2Proof.Machine
end

section
/-!
PROOFS of O5, O6 and O8: the answers to a command that fails a check, to one that passes every check, and to a header that names no
command (60_exceptions.md R400 to R410).
-/

namespace Sys2Proof.Machine

/-! ### O5: a failed check -/

/-- Settles O5: the answer is the whole effect of the command (`exec_failed`), and an answer writes no view. -/
theorem failedCheckIsAnsweredAndChangesNothing : Obligations.FailedCheckIsAnsweredAndChangesNothing := by
  intro i s st hfails
  exact ends_of_exec (exec_failed s i st hfails) ⟨respond_same s _, view_respond s s.issuer _⟩

/-! ### O6: an admitted command -/

/-- The parameters, the queues and the schedule are as before: the part of `SameOutside` that STRM_INIT keeps too. -/
def SameSchedule (s t : State) : Prop := t.params = s.params ∧ t.inboxes = s.inboxes ∧ t.turns = s.turns

theorem sameSchedule_bodyOf (s : State) (i : Instr) : SameSchedule s (bodyOf s i).2 := by
  obtain ⟨n, f, hbody⟩ := bodyOf_frame s i
  rw [hbody]
  exact ⟨rfl, rfl, rfl⟩

theorem SameSchedule.perform {s u : State} (h : SameSchedule s u) (op : Op) (a : Agent) (th : Thread) :
    SameSchedule s (op.perform a th u).2 := by
  obtain ⟨hparams, hinboxes, hturns⟩ := h
  obtain ⟨kparams, kinboxes, kturns, -⟩ := perform_outside op a th u
  exact ⟨kparams.trans hparams, kinboxes.trans hinboxes, kturns.trans hturns⟩

/-- An admitted command that is not switched out answers OK: its entries weigh less than a slice has fuel, so the run ends with none
left, and no entry writes the schedule. -/
theorem exec_answersOk {i : Instr} {s : State} (hb : s.unlimited) (hadmits : s.admitsCommand i) :
    ∃ k v u, SameSchedule s u ∧ exec i s = .next (u.respond s.issuer (okResponse k v)) := by
  obtain ⟨th, u, hsame, -, hend⟩ := drive_ends s.issuer (fun _ u => SameSchedule s u) (fun op _ _ _ _ _ h => h.perform op _ _)
    sliceFuel (bodyOf s i).1 (bodyOf s i).2 (bodyOf_unlimited s i hb) (bodyOf_weight s i) (sameSchedule_bodyOf s i)
  exact ⟨th.kind, th.value, u, hsame, (exec_admitted s i hadmits).trans (congrArg _ hend)⟩

/-- Settles O6. -/
theorem admittedCommandRunsToItsEnd : Obligations.AdmittedCommandRunsToItsEnd := by
  intro i s hb hadmits
  obtain ⟨k, v, u, hsame, hexec⟩ := exec_answersOk hb hadmits
  exact ⟨k, v, ends_of_exec hexec hsame⟩

/-! ### O8: a header that names no command -/

/-- The decoder rejects a header that 60_exceptions.md R404 calls illegal. -/
theorem decode_of_illegal {c : Command} (h : ¬ legalHeader c.h) : ∃ e, decode c = .error e := by
  cases hdecode : decode c with
  | error e => exact ⟨e, rfl⟩
  | ok i => exact absurd ((decoderAcceptsExactlyTheLegalHeaders c).1 ⟨i, hdecode⟩) h

/-- Settles O8: the step takes the command from its queue and answers it (`serve_illegal`), which writes the port of the agent served. -/
theorem stepAnswersAnIllegalHeader : Obligations.StepAnswersAnIllegalHeader := by
  intro s slice rest c cs hturns hport hidle hinbox hillegal
  obtain ⟨e, hdecode⟩ := decode_of_illegal hillegal
  have hserve := serve_illegal (s := s.serving slice rest) hidle hinbox hdecode
  obtain ⟨hblock, ⟨-, -, -, hports⟩, -⟩ := respond_same ((s.serving slice rest).setInbox slice.agent cs) (errorResponse .errIllegal)
  refine ⟨_, (step_serve hturns hport).trans hserve, ?_, hblock, rfl, State.inbox_setInbox_same _ _ _, hports⟩
  exact congrArg Port.response (State.port_respond_same _ slice.agent _)

end Sys2Proof.Machine
end
